-- ==== Sys2Proof/Word.lean ====
section
/-! DEFINITION. The word types of the frame codec (spec 00_scope R11, R13): the link and every protocol
field carry unsigned 8-bit bytes; the host's register words have 32 bits, its byte counters 9. -/

namespace Sys2Proof

/-- A byte of the link, of a buffer or of a protocol field (R11, R13). -/
abbrev Byte := BitVec 8

/-- A host register word: REQ0, REQ1, RN0 to RN4 (10_state R33, R35). -/
abbrev HostWord := BitVec 32

/-- A host-visible byte counter, 0 to 511 (R11). -/
abbrev Count := BitVec 9

end Sys2Proof
end

