-- ==== Sys2Proof/Config.lean ====
section
/-! DEFINITION. What the hardware fixes (protocol constants R9, sizes R10) and what the spec leaves open:
the free values of unspecified host reads (10_state R40, R41, R49) and the two open parameters ADDR_MAP and
WIRE_FORMAT (R12). A free value is opaque: nothing can be proved of it. -/

namespace Sys2Proof.Config

/-! Protocol constants (R9, normative for this hardware; log 14). -/

/-- HDR_QUERY. -/
def hdrQuery : Byte := 0x83
/-- HDR_CONTROL. -/
def hdrControl : Byte := 0x8C
/-- HDR_ANSWER. -/
def hdrAnswer : Byte := 0x70
/-- CATEGORY. -/
def category : Byte := 0x00
/-- QUERY_FILL, the assembler's default for the two query data bytes (R118). -/
def queryFill : Byte := 0xFF
/-- ST_COMPLETED. -/
def stCompleted : Byte := 0x00
/-- ST_LIMIT_UPPER (control answers only). -/
def stLimitUpper : Byte := 0x01
/-- ST_LIMIT_LOWER (control answers only). -/
def stLimitLower : Byte := 0x02
/-- ST_CANCELED. -/
def stCanceled : Byte := 0x03
/-- ST_PARSE_ERROR. -/
def stParseError : Byte := 0x04

/-! Sizes (R10, 10_state R45). -/

/-- CTRL_DATA_MAX: the most data bytes a control request carries. -/
def ctrlDataMax : Nat := 254
/-- FRAME_MAX: the longest request frame, and the size of FRAME. -/
def frameMax : Nat := 259
/-- PAYLOAD_MAX: the size of PAYLOAD. -/
def payloadMax : Nat := 254
/-- DMAX: the size of DATA and LDATA. -/
def dataMax : Nat := 259
/-- The size of RXBUF: the longest answer. -/
def rxbufMax : Nat := 258

/-- What a byte of a buffer holds before anything wrote it. DESIGN CHOICE (log 2): the spec leaves the
contents unspecified and lets nobody read them; unsafe only for a reader that would look. -/
def memFill : Byte := 0x00

/-- The free value an unspecified host read returns, applied to the count of such reads so far
(10_state R40, R41, R49; log 3). -/
opaque unspecifiedRead : Nat → HostWord

/-- WIRE_FORMAT, owned by the transport (R12, R73): no rule depends on it. -/
structure WireFormat where
  lsbFirst : Bool
  baud     : Nat
  parity   : Nat
  stopBits : Nat
  deriving DecidableEq, Repr, Inhabited

/-- The open parameter WIRE_FORMAT (R12; log 15). -/
opaque wireFormat : WireFormat

/-- The open parameter ADDR_MAP (R12, 20_memory R71, R74; log 15): the bus address of one byte of a host register
or array. The first argument numbers it (0 to 4 are RN0 to RN4, then REQ0, REQ1, DATA, PAYLOAD, FRAME), the second
is the byte, 0 the least significant of a word, so that the byte order of a word is part of the map. -/
opaque addrMap : Nat → Nat → Nat

end Sys2Proof.Config
end

