-- ==== Sys2Proof/Machine/Checksum.lean ====
section
/-! DEFINITION. The checksum function, its accumulator and the validator (40_checksum R140, R142, R145). -/

namespace Sys2Proof.Machine

/-- Checksum(s): the sum of the bytes modulo 256 (R140). -/
def checksum (s : List Byte) : Byte :=
  BitVec.ofNat 8 (s.map BitVec.toNat).sum

/-- The 8-bit running accumulator ACC, started at 0 (R145). -/
def accumulate (s : List Byte) : Byte :=
  s.foldl (fun acc v => acc + v) 0

/-- `s` with its checksum byte appended: how every frame ends (30_encoding R100). -/
def withChecksum (s : List Byte) : List Byte :=
  s ++ [checksum s]

/-- Valid(fr): at least one byte, and the last is the checksum of the others (R142). -/
def validFrame (fr : List Byte) : Bool :=
  match fr.getLast? with
  | none => false
  | some c => checksum fr.dropLast == c

end Sys2Proof.Machine
end

