-- ==== Sys2Proof/Syntax.lean ====
section
/-! DEFINITION. The instructions: one constructor per row of spec/opcode_table.json. Eight are the host's
operation requests (30_encoding R113), five are the frames of the wire (R101 to R105). -/

namespace Sys2Proof

/-- The two kinds of request, and so of answer. An answer does not say which it is (30_encoding R108). -/
inductive AnswerKind where
  | query
  | control
  deriving DecidableEq, Repr

/-- One constructor per opcode-table row, with the fields the row gives it. In `chk`, `bc` and `xc`, `dlen`
is REQ1[8:0] and `data` the bytes DATA[0..min(DLEN,259)) that acceptance latches (10_state R33, R34). -/
inductive Instr where
  /-- CHK, OP = 0 (R144). -/
  | chk (dlen : Count) (data : List Byte)
  /-- BQ, OP = 1 (R160). -/
  | bq (f d1 d2 : Byte)
  /-- BC, OP = 2 (R161). -/
  | bc (f : Byte) (dlen : Count) (data : List Byte)
  /-- SEND, OP = 3 (R162). -/
  | send
  /-- PQ, OP = 4 (R194). -/
  | pq
  /-- PC, OP = 5 (R195). -/
  | pc
  /-- XQ, OP = 6 (R230). -/
  | xq (f d1 d2 : Byte)
  /-- XC, OP = 7 (R231). -/
  | xc (f : Byte) (dlen : Count) (data : List Byte)
  /-- QREQ: function, data1, data2, checksum (R101). -/
  | qreq (f a b c : Byte)
  /-- CREQ: function, length, data, checksum (R102). -/
  | creq (f l : Byte) (d : List Byte) (c : Byte)
  /-- ANS_Q_OK: length, payload, checksum (R103). -/
  | ansQOk (n : Byte) (p : List Byte) (c : Byte)
  /-- ANS_Q_ERR: status, checksum (R104). -/
  | ansQErr (st c : Byte)
  /-- ANS_C: status, checksum (R105). -/
  | ansC (st c : Byte)
  deriving DecidableEq, Repr

end Sys2Proof
end

