-- ==== Sys2Proof/WellFormed.lean ====
section
/-! DEFINITION. Which instruction terms stand for an encoding: the data a request carries has the length its
DLEN latches (10_state R34), a frame's length byte counts what follows it (30_encoding R106, R107), a
transmitted frame ends in its checksum (R100), and an abnormal answer has a status that is not Completed
(R104). The checksum of a RECEIVED frame is not constrained: the block is there to check it. -/

namespace Sys2Proof

/-- How many bytes of DATA acceptance latches for this DLEN: min(DLEN, 259) (10_state R34). -/
def latchedLength (dlen : Count) : Nat := min dlen.toNat Config.dataMax

/-- The term stands for an encoding of its row. -/
def Instr.wf : Instr → Bool
  | .chk dlen data => data.length == latchedLength dlen
  | .bq _ _ _ => true
  | .bc _ dlen data => data.length == latchedLength dlen
  | .send => true
  | .pq => true
  | .pc => true
  | .xq _ _ _ => true
  | .xc _ dlen data => data.length == latchedLength dlen
  | .qreq f a b c => c == Machine.checksum [Config.hdrQuery, Config.category, f, a, b]
  | .creq f l d c =>
      l.toNat == d.length + 1 && c == Machine.checksum ([Config.hdrControl, Config.category, f, l] ++ d)
  | .ansQOk n p _ => n.toNat == p.length + 1
  | .ansQErr st _ => st != Config.stCompleted
  | .ansC _ _ => true

end Sys2Proof
end

