-- ==== Sys2Proof/Decode.lean ====
section
/-! DEFINITION. The decoder, total on any words and bytes and rejecting by name, then the encoder, from the
same tables of spec 30_encoding. There are two encodings: a request is REQ0, REQ1 and DATA (R112); a frame is
its bytes on the wire, byte 0 first (R100 to R105). -/

namespace Sys2Proof

/-- Which way a frame goes, and for an answer which kind of request it answers: the bytes do not say (R108). -/
inductive FrameDir where
  | request
  | answer (k : AnswerKind)
  deriving DecidableEq, Repr

/-- An encoded instruction. -/
inductive Code where
  | request (req0 req1 : HostWord) (data : List Byte)
  | frame (dir : FrameDir) (bytes : List Byte)
  deriving DecidableEq, Repr

/-- Why bytes are no frame of the wire encoding. No request is ever rejected: every OP is defined (R115). -/
inductive DecodeError where
  /-- Fewer bytes than the frame announces. -/
  | truncated
  /-- Byte 0 is neither HDR_QUERY nor HDR_CONTROL. -/
  | notRequestHeader
  /-- Byte 0 of an answer is not HDR_ANSWER (R109). -/
  | notAnswerHeader
  /-- Byte 1 of a request is not CATEGORY. -/
  | badCategory
  /-- A control request whose length byte does not count the bytes after it (R106). -/
  | badLength
  /-- A Completed query answer with length byte 0: it has no checksum byte (42_parser R196). -/
  | emptyBody
  /-- Bytes left after the frame. -/
  | trailingBytes
  deriving DecidableEq, Repr

/-! Bit fields of the request words (10_state R33, 30_encoding R112). -/

/-- OP = REQ0[2:0]. -/
def reqOp (req0 : HostWord) : BitVec 3 := req0.extractLsb' 0 3
/-- FUNC = REQ0[15:8]. -/
def reqFunc (req0 : HostWord) : Byte := req0.extractLsb' 8 8
/-- D1 = REQ0[23:16]. -/
def reqD1 (req0 : HostWord) : Byte := req0.extractLsb' 16 8
/-- D2 = REQ0[31:24]. -/
def reqD2 (req0 : HostWord) : Byte := req0.extractLsb' 24 8
/-- DLEN = REQ1[8:0]. -/
def reqDlen (req1 : HostWord) : Count := req1.extractLsb' 0 9

/-- The first `n` bytes of an array whose bytes past the list are `Config.memFill` (log 19). -/
def takeBytes : Nat → List Byte → List Byte
  | 0, _ => []
  | n + 1, [] => Config.memFill :: takeBytes n []
  | n + 1, v :: vs => v :: takeBytes n vs

/-- The operation a request's fields select, with the fields R113 says it reads; the others are ignored
(R114). Every OP is defined (R115). -/
def decodeFields (op : BitVec 3) (func d1 d2 : Byte) (dlen : Count) (data : List Byte) : Instr :=
  let bytes := takeBytes (latchedLength dlen) data
  if op = 0 then .chk dlen bytes
  else if op = 1 then .bq func d1 d2
  else if op = 2 then .bc func dlen bytes
  else if op = 3 then .send
  else if op = 4 then .pq
  else if op = 5 then .pc
  else if op = 6 then .xq func d1 d2
  else .xc func dlen bytes

/-- A request: REQ0[7:3] and REQ1[31:9] are ignored (R115). -/
def decodeRequest (req0 req1 : HostWord) (data : List Byte) : Instr :=
  decodeFields (reqOp req0) (reqFunc req0) (reqD1 req0) (reqD2 req0) (reqDlen req1) data

/-- A whole frame in the direction of the device: QREQ or CREQ, told apart by byte 0 (R101, R102, R109). -/
def decodeRequestFrame : List Byte → Except DecodeError Instr
  | h :: cat :: f :: rest =>
      if h = Config.hdrQuery then
        if cat = Config.category then
          match rest with
          | [a, b, c] => .ok (.qreq f a b c)
          | _ :: _ :: _ :: _ :: _ => .error .trailingBytes
          | _ => .error .truncated
        else .error .badCategory
      else if h = Config.hdrControl then
        if cat = Config.category then
          match rest with
          | [] => .error .truncated
          | l :: body =>
              if l.toNat = body.length then
                match body.getLast? with
                | none => .error .badLength
                | some c => .ok (.creq f l body.dropLast c)
              else .error .badLength
        else .error .badCategory
      else .error .notRequestHeader
  | _ => .error .truncated

/-- The answer at the front of the bytes, read as an answer to a request of this kind, and the bytes after it
(R103 to R108). -/
def decodeAnswer (k : AnswerKind) : List Byte → Except DecodeError (Instr × List Byte)
  | h :: st :: b2 :: rest =>
      if h = Config.hdrAnswer then
        match k with
        | .control => .ok (.ansC st b2, rest)
        | .query =>
            if st = Config.stCompleted then
              if b2 = 0 then .error .emptyBody
              else
                match rest.drop (b2.toNat - 1) with
                | [] => .error .truncated
                | c :: after => .ok (.ansQOk b2 (rest.take (b2.toNat - 1)) c, after)
            else .ok (.ansQErr st b2, rest)
      else .error .notAnswerHeader
  | _ => .error .truncated

/-- The decoder. -/
def decode : Code → Except DecodeError Instr
  | .request req0 req1 data => .ok (decodeRequest req0 req1 data)
  | .frame .request bytes => decodeRequestFrame bytes
  | .frame (.answer k) bytes =>
      match decodeAnswer k bytes with
      | .ok (i, []) => .ok i
      | .ok (_, _ :: _) => .error .trailingBytes
      | .error e => .error e

/-! The encoder. -/

/-- A field standing in a host word with its least significant bit at `lo`. -/
def fieldAt {w : Nat} (lo : Nat) (v : BitVec w) : HostWord :=
  v.setWidth 32 <<< lo

/-- REQ0 = OP | FUNC << 8 | D1 << 16 | D2 << 24, bits [7:3] written 0 (R112). -/
def packReq0 (op : BitVec 3) (func d1 d2 : Byte) : HostWord :=
  fieldAt 0 op ||| fieldAt 8 func ||| fieldAt 16 d1 ||| fieldAt 24 d2

/-- REQ1 = DLEN, bits [31:9] written 0 (R112). -/
def packReq1 (dlen : Count) : HostWord :=
  fieldAt 0 dlen

/-- The encoding of an instruction; fields it does not read are written 0 (R117). -/
def encode : Instr → Code
  | .chk dlen data => .request (packReq0 0 0 0 0) (packReq1 dlen) data
  | .bq f d1 d2 => .request (packReq0 1 f d1 d2) (packReq1 0) []
  | .bc f dlen data => .request (packReq0 2 f 0 0) (packReq1 dlen) data
  | .send => .request (packReq0 3 0 0 0) (packReq1 0) []
  | .pq => .request (packReq0 4 0 0 0) (packReq1 0) []
  | .pc => .request (packReq0 5 0 0 0) (packReq1 0) []
  | .xq f d1 d2 => .request (packReq0 6 f d1 d2) (packReq1 0) []
  | .xc f dlen data => .request (packReq0 7 f 0 0) (packReq1 dlen) data
  | .qreq f a b c => .frame .request [Config.hdrQuery, Config.category, f, a, b, c]
  | .creq f l d c => .frame .request ([Config.hdrControl, Config.category, f, l] ++ d ++ [c])
  | .ansQOk n p c => .frame (.answer .query) ([Config.hdrAnswer, Config.stCompleted, n] ++ p ++ [c])
  | .ansQErr st c => .frame (.answer .query) [Config.hdrAnswer, st, c]
  | .ansC st c => .frame (.answer .control) [Config.hdrAnswer, st, c]

/-- The bytes of an encoded frame; a request has none on the wire. -/
def wireBytes (i : Instr) : List Byte :=
  match encode i with
  | .frame _ bytes => bytes
  | .request _ _ _ => []

/-! The host's view of the opcode table. -/

/-- The `n` bytes of the number `w`, most significant first: the table numbers a wire row as one number, its
byte 0 (leftmost) in the highest bits (spec 98_reader; log 10). -/
def bytesHighFirst : Nat → Nat → List Byte
  | 0, _ => []
  | n + 1, w => BitVec.ofNat 8 (w / 256 ^ n) :: bytesHighFirst n w

/-- The `n` bytes of the number `w`, least significant first. -/
def bytesLowFirst : Nat → Nat → List Byte
  | 0, _ => []
  | n + 1, w => BitVec.ofNat 8 w :: bytesLowFirst n (w / 256)

/-- The wire row these bytes are: a request frame by its header, else an answer. An answer of status Completed
and three bytes is read as ANS_C, any other three bytes as ANS_Q_ERR: the two rows have the same bits (R104,
R105, R108; log 9). -/
def decodeWireRow (bytes : List Byte) : Option Instr :=
  match decode (.frame .request bytes) with
  | .ok i => some i
  | .error _ =>
      match decode (.frame (.answer .query) bytes) with
      | .ok i => some i
      | .error _ => (decode (.frame (.answer .control) bytes)).toOption

/-- The instruction of the opcode table's bits `w`: 32 bits are REQ0 of a request whose REQ1 and DATA are 0,
any other number of bits is a frame of the wire. A row of more than 32 bits has no numbering of its own in the
table, so a word that is no frame byte 0 highest is read byte 0 lowest (log 10). -/
def decodeTableWord (nbits w : Nat) : Option Instr :=
  if nbits = 32 then
    (decode (.request (BitVec.ofNat 32 w) 0 [])).toOption
  else
    match decodeWireRow (bytesHighFirst (nbits / 8) w) with
    | some i => some i
    | none => if 32 < nbits then decodeWireRow (bytesLowFirst (nbits / 8) w) else none

end Sys2Proof
end

