-- ==== Sys2Proof/Machine/Assembler.lean ====
section
/-! DEFINITION. The assembler's view (30_encoding R117, R118): the operand list of an operation sets DLEN to its
length, and the pseudo-instructions expand to one operation. The default 0xFF lives here, not in the block. -/

namespace Sys2Proof.Machine

/-- A line of a program: an operation with the operands R117 gives it, or a pseudo-instruction (R118). -/
inductive AsmLine where
  | chk (bytes : List Byte)
  | bq (f d1 d2 : Byte)
  | bc (f : Byte) (bytes : List Byte)
  | send
  | pq
  | pc
  | xq (f d1 d2 : Byte)
  | xc (f : Byte) (bytes : List Byte)
  | bqDefault (f : Byte)
  | xqDefault (f : Byte)
  | query (f : Byte)
  | control (f : Byte) (bytes : List Byte)
  deriving DecidableEq, Repr

/-- DLEN and DATA of a byte list (R117): DLEN counts the bytes, DATA holds at most 259 of them. A list of 512 bytes
or more has no DLEN, whose 9 bits end at 511; R117 does not say what such a line is, and the model assembles it to
nothing (DESIGN CHOICE, log 20). -/
def asmOperand (bytes : List Byte) : Option (Count × List Byte) :=
  if bytes.length < 512 then some (BitVec.ofNat 9 bytes.length, bytes.take Config.dataMax) else none

/-- The operation a line stands for (R117, R118). -/
def asmInstr : AsmLine → Option Instr
  | .chk bytes => (asmOperand bytes).map fun o => .chk o.1 o.2
  | .bq f d1 d2 => some (.bq f d1 d2)
  | .bc f bytes => (asmOperand bytes).map fun o => .bc f o.1 o.2
  | .send => some .send
  | .pq => some .pq
  | .pc => some .pc
  | .xq f d1 d2 => some (.xq f d1 d2)
  | .xc f bytes => (asmOperand bytes).map fun o => .xc f o.1 o.2
  | .bqDefault f => some (.bq f Config.queryFill Config.queryFill)
  | .xqDefault f => some (.xq f Config.queryFill Config.queryFill)
  | .query f => some (.xq f Config.queryFill Config.queryFill)
  | .control f bytes => (asmOperand bytes).map fun o => .xc f o.1 o.2

/-- The request a line assembles to. -/
def assemble (line : AsmLine) : Option Code := (asmInstr line).map encode

end Sys2Proof.Machine
end

