-- ==== Sys2Proof/Machine/State.lean ====
section
/-! DEFINITION. The machine's state, all of it plain data, its faults and refusals, and the state after reset
(10_state R32 to R48). Names are the spec's; a field that is the model's own says so. -/

namespace Sys2Proof.Machine

/-! ## Memory: one byte array -/

/-- A byte array: (index, byte) pairs in one canonical form, indices strictly rising and no entry equal to
`Config.memFill`, which is what an unlisted index holds (log 2). -/
abbrev Memory := List Host.Cell

/-- The canonical form. -/
abbrev Memory.wf (m : Memory) : Prop :=
  m.Pairwise (fun x y => x.1 < y.1) ∧ ∀ c ∈ m, c.2 ≠ Config.memFill

/-- Every listed index lies inside an array of `size` bytes. -/
abbrev Memory.within (size : Nat) (m : Memory) : Prop :=
  ∀ c ∈ m, c.1 < size

/-- The block's four byte arrays (10_state R45). -/
inductive Buffer where
  | ldata
  | frame
  | rxbuf
  | payload
  deriving DecidableEq, Repr

/-- The contents of the four arrays (10_state R45). -/
structure Buffers where
  ldata   : Memory
  frame   : Memory
  rxbuf   : Memory
  payload : Memory
  deriving DecidableEq, Repr

/-! ## The result record -/

/-- RESULT_KIND (10_state R36): the values 6 and 7 are never written, so there is no constructor for them. -/
inductive ResultKind where
  | ok
  | framing
  | checksum
  | status
  | io
  | length
  deriving DecidableEq, Repr

/-- STATUS_CODE (10_state R37): the value 6 is never written. -/
inductive StatusCode where
  | completed
  | limitOverUpper
  | limitOverLower
  | commandCanceled
  | parseError
  | unknown
  | none
  deriving DecidableEq, Repr

/-- IO_DIR (10_state R42). -/
inductive IoDir where
  | transmit
  | receive
  deriving DecidableEq, Repr

/-- The host-visible registers RN0 to RN4, field by field (10_state R32, R35 to R42). -/
structure ResultRecord where
  busy        : Bool
  resultValid : Bool
  resultKind  : ResultKind
  statusCode  : StatusCode
  ioDir       : IoDir
  hdrRaw      : Byte
  statusRaw   : Byte
  b2Raw       : Byte
  rxCk        : Byte
  calcCk      : Byte
  plen        : Byte
  txCount     : Count
  rxCount     : Count
  frameLen    : Count
  deriving DecidableEq, Repr

/-! ## The request port and the latch -/

/-- The request port (10_state R33): an input, written by the host. -/
structure RequestPort where
  reqValid : Bool
  req0     : HostWord
  req1     : HostWord
  data     : Memory
  deriving DecidableEq, Repr

/-- The request latch but for LDATA, which is a buffer (10_state R34). -/
structure RequestLatch where
  lop    : BitVec 3
  lfunc  : Byte
  ld1    : Byte
  ld2    : Byte
  ldlen  : Count
  deriving DecidableEq, Repr

/-! ## The hidden sequencing state -/

/-- PHASE (10_state R44). -/
inductive Phase where
  | idle
  | run
  deriving DecidableEq, Repr

/-- The continuation point inside the running operation (10_state R44): which link step comes next. -/
inductive Cont where
  /-- No link step is pending. -/
  | none
  /-- The send stage: `TxByte` of FRAME[IDX]; afterwards SEND ends, an exchange parses an answer. -/
  | send (parse : Option AnswerKind)
  /-- ReadHead (42_parser R190): `RxByte` of answer byte IDX. -/
  | head (kind : AnswerKind)
  /-- The body of a normal query answer (42_parser R194): `RxByte` of answer byte IDX. -/
  | body
  deriving DecidableEq, Repr

/-- PHASE, the continuation, IDX, ACC and NEXP (10_state R44; log 17); RXBUF is a buffer. -/
structure Sequencer where
  phase : Phase
  cont  : Cont
  idx   : Count
  acc   : Byte
  nexp  : Byte
  deriving DecidableEq, Repr

/-! ## The transport -/

/-- The transport's answer to one `TxByte` (00_scope R18, 20_memory R76). -/
inductive TxAnswer where
  | ok
  | ioerr
  deriving DecidableEq, Repr

/-- The transport's answer to one `RxByte` (00_scope R18, 20_memory R76). -/
inductive RxAnswer where
  | byte (v : Byte)
  | ioerr
  deriving DecidableEq, Repr

/-- One link step as it happened: the byte offered and its answer, or what was received. -/
inductive LinkEvent where
  | tx (b : Byte) (a : TxAnswer)
  | rx (a : RxAnswer)
  deriving DecidableEq, Repr

/-- The transport and the device (10_state R46, 20_memory R76). An empty queue is a transport that has not
answered: the step waits, for ever if nothing comes (70_reset R288; log 6). -/
structure Transport where
  /-- The answers to the coming `TxByte` steps. -/
  txAnswers : List TxAnswer
  /-- The receive stream: the answers to the coming `RxByte` steps, in the order sent. -/
  rxStream  : List RxAnswer
  /-- The model's own: the bytes the device sends next, not yet in the receive stream (log 8). -/
  line      : List Byte
  /-- The model's own: the kind of request the bytes on `line` answer (30_encoding R108; log 9). -/
  lineKind  : AnswerKind
  /-- The model's own: every link step so far, oldest first (10_state R46(b)). -/
  history   : List LinkEvent
  deriving DecidableEq, Repr

/-! ## The state -/

/-- The whole machine: the block, its request port and reset input, and the transport. -/
structure State where
  port    : RequestPort
  latch   : RequestLatch
  result  : ResultRecord
  bufs    : Buffers
  seq     : Sequencer
  link    : Transport
  /-- The reset input (70_reset R280), sampled at the next step. -/
  resetIn : Bool
  /-- The model's own: how many unspecified values host reads have drawn (10_state R49; log 3). -/
  draws   : Nat
  deriving DecidableEq, Repr

/-- Why the machine stops. -/
inductive Fault where
  /-- Raised by `MemRead` and `MemWrite` for an index outside the buffer (00_scope R18, 20_memory R74: it
  never occurs in any rule). Safe: the model stops where the spec says no block ever is (log 12). -/
  | bufferIndex (b : Buffer)
  deriving DecidableEq, Repr

/-- Why an instruction has no meaning. -/
inductive Refusal where
  /-- Raised only by an arm of `exec` whose instruction has no meaning yet. Safe. No arm is refused. -/
  | notModelled (mnemonic : String)
  deriving DecidableEq, Repr

/-- What a step, or a piece of one, answers. -/
abbrev Out := Host.Outcome State Fault Refusal

/-- Right after reset (10_state R48). A value the spec leaves unspecified is named by log 1 (latch, IDX, ACC,
NEXP) or log 2 (buffers); the inputs and the transport, which reset does not touch, by logs 4 and 6. -/
def State.reset : State where
  port    := { reqValid := false, req0 := 0, req1 := 0, data := [] }
  latch   := { lop := 0, lfunc := 0, ld1 := 0, ld2 := 0, ldlen := 0 }
  result  := { busy := false, resultValid := false, resultKind := .ok, statusCode := .none, ioDir := .transmit,
               hdrRaw := 0, statusRaw := 0, b2Raw := 0, rxCk := 0, calcCk := 0, plen := 0,
               txCount := 0, rxCount := 0, frameLen := 0 }
  bufs    := { ldata := [], frame := [], rxbuf := [], payload := [] }
  seq     := { phase := .idle, cont := .none, idx := 0, acc := 0, nexp := 0 }
  link    := { txAnswers := [], rxStream := [], line := [], lineKind := .query, history := [] }
  resetIn := false
  draws   := 0

end Sys2Proof.Machine
end

