-- ==== Sys2Proof/Machine/Ops.lean ====
section
/-! DEFINITION. The named operations: byte arrays and the primitives MemRead and MemWrite (00_scope R18),
acceptance of a request (10_state R43), the end of an operation, `finish_ok()` or `raise` (00_scope R18,
60_exceptions R260), which is this block's taking of an exception, and reset (70_reset R280). There is no return
from an error (R261): the next acceptance clears the record. -/

namespace Sys2Proof.Machine

/-! ## Byte arrays -/

/-- The byte at an index; `Config.memFill` where nothing is listed. -/
def Memory.read : Memory → Nat → Byte
  | [], _ => Config.memFill
  | (b, w) :: m, a => if b = a then w else Memory.read m a

/-- The array with one byte replaced; a canonical array stays canonical. -/
def Memory.write : Memory → Nat → Byte → Memory
  | [], a, v => if v = Config.memFill then [] else [(a, v)]
  | (b, w) :: m, a, v =>
      if a = b then
        if v = Config.memFill then Memory.write m a v else (a, v) :: m
      else if a < b ∧ v ≠ Config.memFill then (a, v) :: (b, w) :: m
      else (b, w) :: Memory.write m a v

/-- `n` bytes from index `i` on. -/
def Memory.readBytes (m : Memory) : Nat → Nat → List Byte
  | _, 0 => []
  | i, n + 1 => m.read i :: Memory.readBytes m (i + 1) n

/-- The bytes stored from index `i` on. -/
def Memory.writeBytes (m : Memory) : Nat → List Byte → Memory
  | _, [] => m
  | i, v :: vs => Memory.writeBytes (m.write i v) (i + 1) vs

/-- The size of a buffer (10_state R45). -/
def bufferSize : Buffer → Nat
  | .ldata => Config.dataMax
  | .frame => Config.frameMax
  | .rxbuf => Config.rxbufMax
  | .payload => Config.payloadMax

/-- The contents of a buffer. -/
def State.buf (s : State) : Buffer → Memory
  | .ldata => s.bufs.ldata
  | .frame => s.bufs.frame
  | .rxbuf => s.bufs.rxbuf
  | .payload => s.bufs.payload

/-- The state with the contents of one buffer replaced. -/
def State.setBuf (s : State) (b : Buffer) (m : Memory) : State :=
  match b with
  | .ldata => { s with bufs := { s.bufs with ldata := m } }
  | .frame => { s with bufs := { s.bufs with frame := m } }
  | .rxbuf => { s with bufs := { s.bufs with rxbuf := m } }
  | .payload => { s with bufs := { s.bufs with payload := m } }

/-- MemRead(b, i, n), and then what is done with the bytes (00_scope R18). -/
def withRead (b : Buffer) (i n : Nat) (s : State) (use : List Byte → Out) : Out :=
  if i + n ≤ bufferSize b then use ((s.buf b).readBytes i n) else .fault (.bufferIndex b)

/-- MemWrite(b, i, v), and then what follows it (00_scope R18). -/
def withWrite (b : Buffer) (i : Nat) (v : List Byte) (s : State) (next : State → Out) : Out :=
  if i + v.length ≤ bufferSize b then next (s.setBuf b ((s.buf b).writeBytes i v))
  else .fault (.bufferIndex b)

/-! ## The checksum stage -/

/-- ACC runs over the bytes, as every checksum computation does (40_checksum R145). -/
def runAcc (bytes : List Byte) (s : State) : State :=
  { s with seq := { s.seq with acc := accumulate bytes } }

/-- CALC_CK <- v. -/
def setCalcCk (v : Byte) (s : State) : State :=
  { s with result := { s.result with calcCk := v } }

/-- FRAME_LEN <- n. -/
def setFrameLen (n : Count) (s : State) : State :=
  { s with result := { s.result with frameLen := n } }

/-! ## The end of an operation -/

/-- RESULT_KIND <- k, RESULT_VALID <- 1, BUSY <- 0; no link step is pending any more. Both `finish_ok()`
(k = OK) and `raise` (any other k): nothing is vectored and nothing else is saved (00_scope R18, R260). -/
def finish (k : ResultKind) (s : State) : State :=
  { s with
    result := { s.result with resultKind := k, resultValid := true, busy := false }
    seq := { s.seq with phase := .idle, cont := .none } }

/-- `raise IoError(d)`: IO_DIR and then RESULT_KIND = IO (R260). -/
def raiseIo (d : IoDir) (s : State) : State :=
  finish .io { s with result := { s.result with ioDir := d } }

/-! ## Acceptance -/

/-- The result record at acceptance: everything cleared but FRAME_LEN (10_state R43). -/
def ResultRecord.atAcceptance (r : ResultRecord) : ResultRecord :=
  { busy := true, resultValid := false, resultKind := .ok, statusCode := .none, ioDir := .transmit,
    hdrRaw := 0, statusRaw := 0, b2Raw := 0, rxCk := 0, calcCk := 0, plen := 0,
    txCount := 0, rxCount := 0, frameLen := r.frameLen }

/-- Acceptance: the port is copied into the latch, the result record is cleared, BUSY is set (10_state R34,
R43). The handshake takes the request, so REQ_VALID falls (R33; log 5). -/
def accept (s : State) : State :=
  let dlen := reqDlen s.port.req1
  { s with
    port := { s.port with reqValid := false }
    latch := { lop := reqOp s.port.req0, lfunc := reqFunc s.port.req0, ld1 := reqD1 s.port.req0,
               ld2 := reqD2 s.port.req0, ldlen := dlen }
    bufs := { s.bufs with
      ldata := s.bufs.ldata.writeBytes 0 (s.port.data.readBytes 0 (latchedLength dlen)) }
    result := s.result.atAcceptance
    seq := { s.seq with phase := .run, cont := .none } }

/-! ## Reset -/

/-- The reset step: the block takes its reset values (10_state R48, 70_reset R280), a running operation is
abandoned (R281), and the transport and the request port are not touched (R282). The pulse is over. -/
def resetBlock (s : State) : State :=
  { s with
    latch := State.reset.latch
    result := State.reset.result
    bufs := State.reset.bufs
    seq := State.reset.seq
    resetIn := false }

end Sys2Proof.Machine
end

