-- ==== Sys2Proof/Machine/Flags.lean ====
section
/-! DEFINITION. The codes and flags: RESULT_KIND and STATUS_CODE as numbers (10_state R36, R37), the two status
tables (42_parser R192, R193), and the images of RN0 to RN4 (10_state R35). There are no arithmetic flags
(R32). -/

namespace Sys2Proof.Machine

/-- RESULT_KIND as written in RN0[4:2] (R36). -/
def resultKindCode : ResultKind → BitVec 3
  | .ok => 0
  | .framing => 1
  | .checksum => 2
  | .status => 3
  | .io => 4
  | .length => 5

/-- STATUS_CODE as written in RN0[7:5] (R37). -/
def statusCodeCode : StatusCode → BitVec 3
  | .completed => 0
  | .limitOverUpper => 1
  | .limitOverLower => 2
  | .commandCanceled => 3
  | .parseError => 4
  | .unknown => 5
  | .none => 7

/-- IO_DIR as written in RN0[8] (R42). -/
def ioDirCode : IoDir → BitVec 1
  | .transmit => 0
  | .receive => 1

/-- DecodeCtl: the status table of control answers, for a status that is not Completed (R192). -/
def decodeCtl (st : Byte) : StatusCode :=
  if st = Config.stLimitUpper then .limitOverUpper
  else if st = Config.stLimitLower then .limitOverLower
  else if st = Config.stCanceled then .commandCanceled
  else if st = Config.stParseError then .parseError
  else .unknown

/-- DecodeQry: the status table of query answers; 0x01 and 0x02 are Unknown (R193). -/
def decodeQry (st : Byte) : StatusCode :=
  if st = Config.stCanceled then .commandCanceled
  else if st = Config.stParseError then .parseError
  else .unknown

/-- The status table of an answer kind (30_encoding R110). -/
def decodeStatus : AnswerKind → Byte → StatusCode
  | .query => decodeQry
  | .control => decodeCtl

/-- REQ_READY = 1 exactly when BUSY = 0 (10_state R33). -/
def reqReady (s : State) : Bool := !s.result.busy

/-- RN0 STAT: BUSY, RESULT_VALID, RESULT_KIND, STATUS_CODE, IO_DIR; the rest reads 0 (R35). -/
def rn0 (r : ResultRecord) : HostWord :=
  fieldAt 0 (BitVec.ofBool r.busy) ||| fieldAt 1 (BitVec.ofBool r.resultValid)
    ||| fieldAt 2 (resultKindCode r.resultKind) ||| fieldAt 5 (statusCodeCode r.statusCode)
    ||| fieldAt 8 (ioDirCode r.ioDir)

/-- RN1 RAW: HDR_RAW, STATUS_RAW, B2_RAW; the rest reads 0 (R35, R38). -/
def rn1 (r : ResultRecord) : HostWord :=
  fieldAt 0 r.hdrRaw ||| fieldAt 8 r.statusRaw ||| fieldAt 16 r.b2Raw

/-- RN2 CKS: RX_CK, CALC_CK, PLEN; the rest reads 0 (R35, R39, R40). -/
def rn2 (r : ResultRecord) : HostWord :=
  fieldAt 0 r.rxCk ||| fieldAt 8 r.calcCk ||| fieldAt 16 r.plen

/-- RN3 CNT: TX_COUNT, RX_COUNT; the rest reads 0 (R35, R42). -/
def rn3 (r : ResultRecord) : HostWord :=
  fieldAt 0 r.txCount ||| fieldAt 16 r.rxCount

/-- RN4 FLEN: FRAME_LEN; the rest reads 0 (R35, R41). -/
def rn4 (r : ResultRecord) : HostWord :=
  fieldAt 0 r.frameLen

end Sys2Proof.Machine
end

