-- ==== Sys2Proof/Machine/HostPort.lean ====
section
/-! DEFINITION. The host's reads of the result record (10_state R35, R49, 60_exceptions R264): every register is
readable at any time and none is writable. A read the spec leaves unspecified returns a free value (log 3). -/

namespace Sys2Proof.Machine

/-- The host-readable registers and array bytes (10_state R35). -/
inductive HostReg where
  | rn0
  | rn1
  | rn2
  | rn3
  | rn4
  | payload (i : Fin 254)
  | frame (i : Fin 259)
  deriving DecidableEq, Repr

/-- What a read of the register returns when its value is specified: between operations, and for array bytes
within the valid length (R40, R41). `none` where the spec leaves the value open. -/
def specifiedRead (reg : HostReg) (s : State) : Option HostWord :=
  if s.result.busy then none
  else
    match reg with
    | .rn0 => some (rn0 s.result)
    | .rn1 => some (rn1 s.result)
    | .rn2 => some (rn2 s.result)
    | .rn3 => some (rn3 s.result)
    | .rn4 => some (rn4 s.result)
    | .payload i =>
        if i.val < s.result.plen.toNat then some ((s.bufs.payload.read i.val).setWidth 32) else none
    | .frame i =>
        if i.val < s.result.frameLen.toNat then some ((s.bufs.frame.read i.val).setWidth 32) else none

/-- RN0 while an operation runs: BUSY and RESULT_VALID are true values, RESULT_KIND, STATUS_CODE and IO_DIR
(bits 8 to 2) are unspecified, reserved bits read 0 (R35, R49; log 3). -/
def busyRn0 (r : ResultRecord) (free : HostWord) : HostWord :=
  (free &&& 0x000001FC) ||| fieldAt 0 (BitVec.ofBool r.busy) ||| fieldAt 1 (BitVec.ofBool r.resultValid)

/-- The bits of a register that a read which is unspecified may return: a byte of an array is 8 bits wide. -/
def freeRead (reg : HostReg) (s : State) : HostWord :=
  let free := Config.unspecifiedRead s.draws
  match reg with
  | .rn0 => busyRn0 s.result free
  | .payload _ => free &&& 0x000000FF
  | .frame _ => free &&& 0x000000FF
  | _ => free

/-- A host read: the value, and the state, in which only the model's count of free values moves (20_memory
R75: a host read has no side effect). -/
def hostRead (reg : HostReg) (s : State) : HostWord × State :=
  match specifiedRead reg s with
  | some v => (v, s)
  | none => (freeRead reg s, { s with draws := s.draws + 1 })

end Sys2Proof.Machine
end

