-- ==== Sys2Proof/Machine/Operands.lean ====
section
/-! DEFINITION. What the operations read: the operation in the latch (10_state R34, 20_memory R81), the data
bytes of a request, and the frames the framer makes of them (30_encoding R101, R102). -/

namespace Sys2Proof.Machine

/-- The operation the latch holds, with its operands: MemRead(LDATA, 0, min(LDLEN, 259)) is its data. -/
def latchedInstr (s : State) : Instr :=
  decodeFields s.latch.lop s.latch.lfunc s.latch.ld1 s.latch.ld2 s.latch.ldlen
    (s.bufs.ldata.readBytes 0 (latchedLength s.latch.ldlen))

/-- The LDLEN data bytes of an operation whose length check has passed. -/
def operandData (dlen : Count) (data : List Byte) : List Byte :=
  takeBytes dlen.toNat data

/-- The Query Request frame (R101, 41_framer R160). -/
def queryFrame (f d1 d2 : Byte) : List Byte :=
  withChecksum [Config.hdrQuery, Config.category, f, d1, d2]

/-- The Control Request frame; its length byte is LDLEN + 1 (R102, R106, 41_framer R161). -/
def controlFrame (f : Byte) (d : List Byte) : List Byte :=
  withChecksum ([Config.hdrControl, Config.category, f, BitVec.ofNat 8 (d.length + 1)] ++ d)

end Sys2Proof.Machine
end

