-- ==== Sys2Proof/Machine/ChecksumOp.lean ====
section
/-! DEFINITION. CHECKSUM (40_checksum R144). A meaning is the operation's body, run on a state that acceptance has
prepared (Turn.lean accepts and then calls `exec`; log 18). -/

namespace Sys2Proof.Machine

/-- CHK (R144): LENGTH above DMAX, else CALC_CK <- Checksum(LDATA[0..LDLEN)). -/
def execChk (dlen : Count) (data : List Byte) (s : State) : Out :=
  if Config.dataMax < dlen.toNat then .next (finish .length s)
  else
    let d := operandData dlen data
    .next (finish .ok (setCalcCk (checksum d) (runAcc d s)))

end Sys2Proof.Machine
end

