-- ==== Sys2Proof/Machine/ParseStage.lean ====
section
/-! DEFINITION. The checks the response parser makes once bytes have arrived (42_parser R190 to R196): after the
3-byte head, and after the body of a normal query answer. None of them takes a link step. -/

namespace Sys2Proof.Machine

/-- The checksum comparison: ACC runs over `covered`, CALC_CK and RX_CK are written, and CHECKSUM ends the
operation if they differ (R194, R195, 10_state R39). -/
def compareChecksum (covered : List Byte) (received : Byte) (s : State) (pass : State → Out) : Out :=
  let s1 := runAcc covered s
  let s2 := { s1 with result := { s1.result with calcCk := checksum covered, rxCk := received } }
  if checksum covered = received then pass s2 else .next (finish .checksum s2)

/-- A valid answer that is complete with its head: STATUS with the decoded status, or OK and Completed
(R194 step 3, R195 steps 4 and 5). -/
def concludeStatus (k : AnswerKind) (st : Byte) (s : State) : Out :=
  if st = Config.stCompleted then
    .next (finish .ok { s with result := { s.result with statusCode := .completed } })
  else
    .next (finish .status { s with result := { s.result with statusCode := decodeStatus k st } })

/-- The end of a normal query answer: the last byte of the buffer is its checksum, the bytes between the head
and it are the payload (R194 step 4). With N = 0 the buffer is the head itself (R196). -/
def afterBody (s : State) : Out :=
  withRead .rxbuf 0 (3 + s.seq.nexp.toNat) s fun buf =>
    compareChecksum buf.dropLast (buf.getLastD 0) s fun s1 =>
      let p := (buf.dropLast).drop 3
      withWrite .payload 0 p s1 fun s2 =>
        .next (finish .ok { s2 with
          result := { s2.result with plen := BitVec.ofNat 8 p.length, statusCode := .completed } })

/-- Once the head is complete: the raw bytes are reported, the header is checked, and the answer is complete or
(a normal query answer) its body follows (R190, R191, R194, R195). -/
def afterHead (k : AnswerKind) (s : State) : Out :=
  withRead .rxbuf 0 3 s fun h =>
    let h0 := h.getD 0 0
    let h1 := h.getD 1 0
    let h2 := h.getD 2 0
    let s1 := { s with result := { s.result with hdrRaw := h0, statusRaw := h1, b2Raw := h2 } }
    if h0 = Config.hdrAnswer then
      match k with
      | .control => compareChecksum [h0, h1] h2 s1 (concludeStatus .control h1)
      | .query =>
          if h1 = Config.stCompleted then
            let s2 := { s1 with seq := { s1.seq with nexp := h2, cont := .body } }
            if h2 = 0 then afterBody s2 else .next s2
          else compareChecksum [h0, h1] h2 s1 (concludeStatus .query h1)
    else .next (finish .framing s1)

/-- The parse stage begins: the next link step is the first `RxByte` of ReadHead (R190). -/
def startHead (k : AnswerKind) (s : State) : State :=
  { s with seq := { s.seq with cont := .head k, idx := 0 } }

end Sys2Proof.Machine
end

