-- ==== Sys2Proof/Machine/Link.lean ====
section
/-! DEFINITION. The link: one `TxByte` or `RxByte` is one `linkStep`, and one step of the machine (00_scope R18,
20_memory R75 to R79); the pure work that follows it belongs to it (log 7). A transport that has not answered leaves
the state as it is: the block waits (70_reset R288; log 6). -/

namespace Sys2Proof.Machine

/-- After the last byte of a send stage: SEND ends OK, an exchange goes on to parse (41_framer R162, 43_exchange
R230, R231, 20_memory R79). -/
def afterSend (parse : Option AnswerKind) (s : State) : State :=
  match parse with
  | none => finish .ok s
  | some k => startHead k s

/-- `TxByte(FRAME[IDX])` with the transport's answer `a`, inside WriteAll: the bytes go out in index order, each
after the one before was accepted (00_scope R18, 20_memory R78). -/
def txStep (parse : Option AnswerKind) (a : TxAnswer) (rest : List TxAnswer) (s : State) : Out :=
  withRead .frame s.seq.idx.toNat 1 s fun bs =>
    let s1 := { s with link := { s.link with
      txAnswers := rest, history := s.link.history ++ [LinkEvent.tx (bs.headD 0) a] } }
    match a with
    | .ioerr => .next (raiseIo .transmit { s1 with result := { s1.result with txCount := s.seq.idx } })
    | .ok =>
        let s2 := { s1 with seq := { s1.seq with idx := s.seq.idx + 1 } }
        if s.seq.idx.toNat + 1 < s.result.frameLen.toNat then .next s2
        else .next (afterSend parse { s2 with result := { s2.result with txCount := s.result.frameLen } })

/-- `RxByte` with the transport's answer `a`, inside ReadExact up to answer byte `upto`: the byte leaves the
receive stream, joins RXBUF and is counted; `done` follows the last (00_scope R18, 20_memory R75). -/
def rxStep (upto : Nat) (a : RxAnswer) (rest : List RxAnswer) (s : State) (done : State → Out) : Out :=
  let s1 := { s with link := { s.link with rxStream := rest, history := s.link.history ++ [LinkEvent.rx a] } }
  match a with
  | .ioerr => .next (raiseIo .receive s1)
  | .byte v =>
      withWrite .rxbuf s.seq.idx.toNat [v] s1 fun s2 =>
        let s3 := { s2 with
          seq := { s2.seq with idx := s.seq.idx + 1 }
          result := { s2.result with rxCount := s.result.rxCount + 1 } }
        if s.seq.idx.toNat + 1 < upto then .next s3 else done s3

/-- One link step of the running operation, if it waits for one and the transport has answered; else nothing
happens (R18, R288). -/
def linkStep (s : State) : Out :=
  match s.seq.cont with
  | .none => .next s
  | .send parse =>
      match s.link.txAnswers with
      | [] => .next s
      | a :: rest => txStep parse a rest s
  | .head k =>
      match s.link.rxStream with
      | [] => .next s
      | a :: rest => rxStep 3 a rest s (afterHead k)
  | .body =>
      match s.link.rxStream with
      | [] => .next s
      | a :: rest => rxStep (3 + s.seq.nexp.toNat) a rest s afterBody

/-- The send stage up to its first link step: WriteAll(FRAME[0..FRAME_LEN)); an empty frame takes no link step
(R18, 41_framer R162). -/
def sendStage (parse : Option AnswerKind) (s : State) : Out :=
  withRead .frame 0 s.result.frameLen.toNat s fun fr =>
    if fr = [] then .next (afterSend parse { s with result := { s.result with txCount := 0 } })
    else .next { s with seq := { s.seq with cont := .send parse, idx := 0 } }

/-- The parse stage up to its first link step (42_parser R190). -/
def parseStage (k : AnswerKind) (s : State) : Out :=
  .next (startHead k s)

end Sys2Proof.Machine
end

