-- ==== Sys2Proof/Machine/Framer.lean ====
section
/-! DEFINITION. The request framer, BUILD_QUERY and BUILD_CONTROL, and SEND (41_framer R160 to R163). The framer
checks nothing but the length limit (R163). -/

namespace Sys2Proof.Machine

/-- The build stage: the frame goes to FRAME, its length to FRAME_LEN, ACC has run over all but the checksum
(R160, R161, 40_checksum R145). -/
def buildStage (fr : List Byte) (s : State) (next : State → Out) : Out :=
  withWrite .frame 0 fr s fun s1 =>
    next (setFrameLen (BitVec.ofNat 9 fr.length) (runAcc fr.dropLast s1))

/-- BC and XC above CTRL_DATA_MAX: FRAME_LEN <- 0 and LENGTH (R161, R231, 60_exceptions R256). -/
def refuseLength (s : State) : Out :=
  .next (finish .length (setFrameLen 0 s))

/-- BQ (R160). -/
def execBq (f d1 d2 : Byte) (s : State) : Out :=
  let fr := queryFrame f d1 d2
  buildStage fr s fun s1 => .next (finish .ok (setCalcCk (fr.getLastD 0) s1))

/-- BC (R161). -/
def execBc (f : Byte) (dlen : Count) (data : List Byte) (s : State) : Out :=
  if Config.ctrlDataMax < dlen.toNat then refuseLength s
  else
    let fr := controlFrame f (operandData dlen data)
    buildStage fr s fun s1 => .next (finish .ok (setCalcCk (fr.getLastD 0) s1))

/-- SEND (R162). -/
def execSend (s : State) : Out :=
  sendStage none s

end Sys2Proof.Machine
end

