-- ==== Sys2Proof/Machine/Exchange.lean ====
section
/-! DEFINITION. The exchanges, QUERY_EXCHANGE and CONTROL_EXCHANGE: build, send, then parse the answer of the same
kind. CALC_CK is not written by the build stage (43_exchange R230, R231). -/

namespace Sys2Proof.Machine

/-- XQ (R230): the build stage cannot fail. -/
def execXq (f d1 d2 : Byte) (s : State) : Out :=
  buildStage (queryFrame f d1 d2) s (sendStage (some .query))

/-- XC (R231): the build stage refuses too much data before any link activity. -/
def execXc (f : Byte) (dlen : Count) (data : List Byte) (s : State) : Out :=
  if Config.ctrlDataMax < dlen.toNat then refuseLength s
  else buildStage (controlFrame f (operandData dlen data)) s (sendStage (some .control))

end Sys2Proof.Machine
end

