-- ==== Sys2Proof/Machine/Parser.lean ====
section
/-! DEFINITION. The response parser, PARSE_QUERY and PARSE_CONTROL (42_parser R194, R195). An answer is not
compared with any request (R198), and its payload is returned as received (R199). -/

namespace Sys2Proof.Machine

/-- PQ (R194). -/
def execPq (s : State) : Out :=
  parseStage .query s

/-- PC (R195). -/
def execPc (s : State) : Out :=
  parseStage .control s

end Sys2Proof.Machine
end

