-- ==== Sys2Proof/Machine/WireFrames.lean ====
section
/-! DEFINITION. The five frames of the wire as instructions of the link (30_encoding R101 to R105; log 8). A
request frame is transmitted by the send stage that holds it; an answer frame is sent by the device, and the
transport holds its bytes in order until the block reads them (20_memory R76, 70_reset R287). -/

namespace Sys2Proof.Machine

/-- The running send stage stands before its first byte and FRAME[0..FRAME_LEN) is exactly this frame. -/
def offers (fr : List Byte) (s : State) : Bool :=
  match s.seq.cont with
  | .send _ =>
      s.seq.idx == 0 && s.result.frameLen.toNat ≤ bufferSize .frame &&
        s.bufs.frame.readBytes 0 s.result.frameLen.toNat == fr
  | _ => false

/-- The transmission of a request frame where the block offers it: the first of its `TxByte` steps, after which the
send stage goes on byte by byte (R18). The block transmits no frame it does not hold, so elsewhere nothing happens
(41_framer R162, 20_memory R78; log 8). -/
def transmitFrame (fr : List Byte) (s : State) : Out :=
  if offers fr s then linkStep s else .next s

/-- These bytes join the receive stream, in order, behind what it holds (20_memory R76, 10_state R46). -/
def joinStream (bytes : List Byte) (s : State) : State :=
  { s with link := { s.link with rxStream := s.link.rxStream ++ bytes.map RxAnswer.byte } }

/-- The device sends these bytes; a block waiting in `RxByte` takes them in the steps that follow, one by one
(20_memory R76, R18). -/
def receiveBytes (bytes : List Byte) (s : State) : Out :=
  .next (joinStream bytes s)

/-- QREQ (R101). -/
def execQreq (f a b c : Byte) (s : State) : Out :=
  transmitFrame [Config.hdrQuery, Config.category, f, a, b, c] s

/-- CREQ (R102). -/
def execCreq (f l : Byte) (d : List Byte) (c : Byte) (s : State) : Out :=
  transmitFrame ([Config.hdrControl, Config.category, f, l] ++ d ++ [c]) s

/-- ANS_Q_OK (R103). -/
def execAnsQOk (n : Byte) (p : List Byte) (c : Byte) (s : State) : Out :=
  receiveBytes ([Config.hdrAnswer, Config.stCompleted, n] ++ p ++ [c]) s

/-- ANS_Q_ERR (R104). -/
def execAnsQErr (st c : Byte) (s : State) : Out :=
  receiveBytes [Config.hdrAnswer, st, c] s

/-- ANS_C (R105): the same bytes as ANS_Q_ERR; what they mean is the running parser's to say (R108). -/
def execAnsC (st c : Byte) (s : State) : Out :=
  receiveBytes [Config.hdrAnswer, st, c] s

end Sys2Proof.Machine
end

