-- ==== Sys2Proof/Machine/Dispatch.lean ====
section
/-! DEFINITION. One arm per constructor of Instr, each one call of its meaning. -/

namespace Sys2Proof.Machine

def exec (i : Instr) (s : State) : Host.Outcome State Fault Refusal :=
  match i with
  | .chk dlen data => Sys2Proof.Machine.execChk dlen data s
  | .bq f d1 d2 => Sys2Proof.Machine.execBq f d1 d2 s
  | .bc f dlen data => Sys2Proof.Machine.execBc f dlen data s
  | .send => Sys2Proof.Machine.execSend s
  | .pq => Sys2Proof.Machine.execPq s
  | .pc => Sys2Proof.Machine.execPc s
  | .xq f d1 d2 => Sys2Proof.Machine.execXq f d1 d2 s
  | .xc f dlen data => Sys2Proof.Machine.execXc f dlen data s
  | .qreq f a b c => Sys2Proof.Machine.execQreq f a b c s
  | .creq f l d c => Sys2Proof.Machine.execCreq f l d c s
  | .ansQOk n p c => Sys2Proof.Machine.execAnsQOk n p c s
  | .ansQErr st c => Sys2Proof.Machine.execAnsQErr st c s
  | .ansC st c => Sys2Proof.Machine.execAnsC st c s

end Sys2Proof.Machine
end

