-- ==== Sys2Proof/Machine/Fetch.lean ====
section
/-! DEFINITION. Where the next instruction stands. The block fetches none from memory (10_state R31): an operation
comes from the request port through the latch, a request frame from FRAME at the start of a send stage, an answer
frame from the bytes the device is about to send (log 8). Also the placing of an instruction there. -/

namespace Sys2Proof.Machine

/-- The request frame a send stage stands before, as the decoder reads it from FRAME. -/
def offeredFrame (s : State) : Option Instr :=
  match s.seq.cont with
  | .send _ =>
      if s.seq.idx = 0 ∧ s.result.frameLen.toNat ≤ bufferSize .frame then
        (decode (.frame .request (s.bufs.frame.readBytes 0 s.result.frameLen.toNat))).toOption
      else none
  | _ => none

/-- The answer frame at the front of the device's bytes, and the state without it. -/
def arrivingFrame (s : State) : Option (Instr × State) :=
  match decodeAnswer s.link.lineKind s.link.line with
  | .ok (i, rest) => some (i, { s with link := { s.link with line := rest } })
  | .error _ => none

/-- Bytes of the device that are no answer frame arrive one at a time (log 8). -/
def arrivingByte (s : State) : Out :=
  match s.link.line with
  | [] => .next s
  | b :: more => receiveBytes [b] { s with link := { s.link with line := more } }

/-! ## The host's and the transport's actions: they land between two steps -/

/-- The host presents a request: the two words, the operand bytes, REQ_VALID (10_state R33). Presented while
BUSY = 1 it waits (R284). -/
def hostPresent (req0 req1 : HostWord) (data : List Byte) (s : State) : State :=
  { s with port := { reqValid := true, req0 := req0, req1 := req1,
                     data := s.port.data.writeBytes 0 (data.take Config.dataMax) } }

/-- The host asserts the reset input (70_reset R280). -/
def assertReset (s : State) : State :=
  { s with resetIn := true }

/-- The transport answers the coming `TxByte` steps (20_memory R76). -/
def grantTx (answers : List TxAnswer) (s : State) : State :=
  { s with link := { s.link with txAnswers := s.link.txAnswers ++ answers } }

/-- The transport answers the coming `RxByte` steps: bytes of the device, or read failures (20_memory R76). -/
def grantRx (answers : List RxAnswer) (s : State) : State :=
  { s with link := { s.link with rxStream := s.link.rxStream ++ answers } }

/-- The device puts bytes on the line, behind those that have not arrived yet, as answers to a request of this kind.
R76 speaks only of bytes already sent; that those still on the line stay there, before the new ones, and that the kind
given last holds for all of them, are the model's choices (DESIGN CHOICE, log 21). -/
def deviceSends (k : AnswerKind) (bytes : List Byte) (s : State) : State :=
  { s with link := { s.link with line := s.link.line ++ bytes, lineKind := k } }

/-! ## Placing an instruction where the next step fetches it: it stands for the outside world (log 11) -/

/-- The request port holds the request and the block is idle and ready for it. -/
def placeRequest (req0 req1 : HostWord) (data : List Byte) (s : State) : State :=
  let s1 := hostPresent req0 req1 data s
  { s1 with
    resetIn := false
    result := { s1.result with busy := false }
    seq := { s1.seq with phase := .idle, cont := .none }
    link := { s1.link with line := [] } }

/-- FRAME holds the frame, and a SEND of it has been accepted and waits before its first byte. -/
def placeRequestFrame (bytes : List Byte) (s : State) : State :=
  { s with
    resetIn := false
    latch := { s.latch with lop := 3 }
    bufs := { s.bufs with frame := s.bufs.frame.writeBytes 0 bytes }
    result := { s.result.atAcceptance with frameLen := BitVec.ofNat 9 bytes.length }
    seq := { s.seq with phase := .run, cont := .send none, idx := 0 }
    link := { s.link with line := [] } }

/-- The device is about to send exactly this answer frame: the line holds nothing else. -/
def placeAnswer (k : AnswerKind) (bytes : List Byte) (s : State) : State :=
  { s with
    resetIn := false
    link := { s.link with line := bytes, lineKind := k } }

/-- An encoded instruction put where the next step fetches it. -/
def place : Code → State → State
  | .request req0 req1 data, s => placeRequest req0 req1 data s
  | .frame .request bytes, s => placeRequestFrame bytes s
  | .frame (.answer k) bytes, s => placeAnswer k bytes s

/-- The encoding that the opcode table's bits `w` are: 32 bits are REQ0 (with every bit, reserved ones too) of a
request whose other words are 0; other rows are the frame the decoder reads. -/
def tableCode (nbits w : Nat) : Option Code :=
  if nbits = 32 then some (.request (BitVec.ofNat 32 w) 0 (List.replicate Config.dataMax 0))
  else (decodeTableWord nbits w).map encode

end Sys2Proof.Machine
end

