-- ==== Sys2Proof/Machine/Turn.lean ====
section
/-! DEFINITION. What happens in one step, at the spec's grain (00_scope R18; log 7): reset first (60_exceptions R259),
then a frame the device sends, then the operation in progress, then acceptance of a presented request (10_state R43);
otherwise nothing (R268; log 13). -/

namespace Sys2Proof.Machine

/-- The operation in progress goes on by one link step; at the start of a send stage the frame in FRAME is the
instruction, and the link step its first. -/
def resumeStep (s : State) : Out :=
  match offeredFrame s with
  | some i => exec i s
  | none => linkStep s

/-- The device's turn. -/
def arrivalStep (s : State) : Out :=
  match arrivingFrame s with
  | some (i, t) => exec i t
  | none => arrivingByte s

/-- Acceptance, and the operation in the latch (10_state R43, 20_memory R81). -/
def acceptStep (s : State) : Out :=
  exec (latchedInstr (accept s)) (accept s)

/-- One step: the first of the events that can happen does. -/
def turn (s : State) : Out :=
  if s.resetIn then .next (resetBlock s)
  else if s.link.line ≠ [] then arrivalStep s
  else if s.result.busy then resumeStep s
  else if s.port.reqValid then acceptStep s
  else .next s

/-- The state with the opcode table's instruction `w` placed where the next step fetches its instruction. -/
def placeTableWord (nbits w : Nat) (s : State) : State :=
  match tableCode nbits w with
  | some c => place c s
  | none => s

end Sys2Proof.Machine
end

