-- ==== Sys2Proof/Machine/Step.lean ====
section
/-! DEFINITION. The step under its fixed name, and the placing of a table word; Turn.lean says what they do. -/

namespace Sys2Proof.Machine

/-- One step of the machine. -/
def step (s : State) : Host.Outcome State Fault Refusal :=
  turn s

/-- The state with the opcode table's instruction `w` placed where `step` fetches its next instruction. -/
def State.withFetchWord (s : State) (nbits w : Nat) : State :=
  placeTableWord nbits w s

end Sys2Proof.Machine
end

