-- ==== Sys2Proof/Safety.lean ====
section
/-! DEFINITION. What claims rest on: the invariant of the machine between two steps, each part from the rule it
cites, and what it is to be ready for a request. -/

namespace Sys2Proof.Machine

/-- Every byte array is in canonical form and lies inside its size (10_state R45, 20_memory R74). -/
abbrev State.memoriesOk (s : State) : Prop :=
  (s.bufs.ldata.wf ∧ s.bufs.ldata.within Config.dataMax) ∧
  (s.bufs.frame.wf ∧ s.bufs.frame.within Config.frameMax) ∧
  (s.bufs.rxbuf.wf ∧ s.bufs.rxbuf.within Config.rxbufMax) ∧
  (s.bufs.payload.wf ∧ s.bufs.payload.within Config.payloadMax) ∧
  (s.port.data.wf ∧ s.port.data.within Config.dataMax)

/-- BUSY and RESULT_VALID never hold together (10_state R32), PHASE is IDLE exactly when BUSY = 0 (R44), and a
link step is pending exactly while an operation runs. -/
abbrev State.flagsOk (s : State) : Prop :=
  ¬ (s.result.busy = true ∧ s.result.resultValid = true) ∧
  (s.seq.phase = .idle ↔ s.result.busy = false) ∧
  (s.seq.cont = .none ↔ s.result.busy = false)

/-- The request frame in FRAME. -/
abbrev State.frameBytes (s : State) : List Byte :=
  s.bufs.frame.readBytes 0 s.result.frameLen.toNat

/-- The payload in PAYLOAD. -/
abbrev State.payloadBytes (s : State) : List Byte :=
  s.bufs.payload.readBytes 0 s.result.plen.toNat

/-- A whole, well-formed request frame: what the framer builds (30_encoding R101, R102, 40_checksum R143). -/
def isRequestFrame (bytes : List Byte) : Bool :=
  match decodeRequestFrame bytes with
  | .ok i => i.wf
  | .error _ => false

/-- FRAME holds a request frame unless FRAME_LEN = 0 (10_state R41, 41_framer R162). -/
abbrev State.frameOk (s : State) : Prop :=
  s.result.frameLen = 0 ∨ (s.result.frameLen.toNat ≤ Config.frameMax ∧ isRequestFrame s.frameBytes = true)

/-- The position inside the running operation lies inside the frame sent or the answer received (10_state R31,
R44), and nothing but head bytes and counts has been recorded yet (R43). -/
abbrev State.positionOk (s : State) : Prop :=
  match s.seq.cont with
  | .none => True
  | .send _ =>
      s.seq.idx.toNat < s.result.frameLen.toNat ∧ s.result.txCount = 0 ∧ s.result.rxCount = 0 ∧
        (s.result.hdrRaw, s.result.statusRaw, s.result.b2Raw) = (0, 0, 0)
  | .head _ =>
      s.seq.idx.toNat < 3 ∧ s.result.rxCount = s.seq.idx ∧
        (s.result.hdrRaw, s.result.statusRaw, s.result.b2Raw) = (0, 0, 0)
  | .body =>
      3 ≤ s.seq.idx.toNat ∧ s.seq.idx.toNat < 3 + s.seq.nexp.toNat ∧ s.result.rxCount = s.seq.idx ∧
        (s.result.hdrRaw, s.result.statusRaw, s.result.b2Raw) =
          (Config.hdrAnswer, Config.stCompleted, s.seq.nexp) ∧
        s.bufs.rxbuf.readBytes 0 3 = [Config.hdrAnswer, Config.stCompleted, s.seq.nexp]

/-- While an operation runs its outcome fields keep the values acceptance gave them (10_state R43, R39). -/
abbrev State.runningRecordOk (s : State) : Prop :=
  s.result.busy = true →
    s.result.resultKind = .ok ∧ s.result.statusCode = .none ∧ s.result.ioDir = .transmit ∧
    s.result.plen = 0 ∧ s.result.rxCk = 0 ∧ s.result.calcCk = 0

/-- What the cause table says each outcome records (60_exceptions R250 to R256, 10_state R37, R40). -/
abbrev State.outcomeOk (s : State) : Prop :=
  (s.result.plen ≠ 0 → s.result.resultValid = true ∧ s.result.resultKind = .ok) ∧
  s.result.plen.toNat ≤ Config.payloadMax ∧
  (s.result.statusCode = .completed → s.result.resultKind = .ok) ∧
  (s.result.statusCode ≠ .completed ∧ s.result.statusCode ≠ .none ↔ s.result.resultKind = .status) ∧
  (s.result.resultKind = .status →
    s.result.rxCk = s.result.calcCk ∧ s.result.statusRaw ≠ Config.stCompleted ∧ s.result.rxCount = 3) ∧
  (s.result.resultKind = .framing →
    s.result.hdrRaw ≠ Config.hdrAnswer ∧ s.result.rxCk = 0 ∧ s.result.calcCk = 0 ∧ s.result.rxCount = 3) ∧
  (s.result.resultKind = .checksum → s.result.rxCk ≠ s.result.calcCk) ∧
  s.result.txCount.toNat ≤ Config.frameMax ∧
  s.result.rxCount.toNat ≤ Config.rxbufMax

/-- The invariant of the machine between two steps. -/
def State.Inv (s : State) : Prop :=
  s.memoriesOk ∧ s.flagsOk ∧ s.frameOk ∧ s.positionOk ∧ s.runningRecordOk ∧ s.outcomeOk

/-- The next step accepts a request: REQ_VALID = 1, BUSY = 0, no reset and no frame arriving (10_state R43). -/
abbrev State.acceptsNext (s : State) : Prop :=
  s.resetIn = false ∧ s.link.line = [] ∧ s.result.busy = false ∧ s.port.reqValid = true

/-- The next step goes on with the operation in progress. -/
abbrev State.resumesNext (s : State) : Prop :=
  s.resetIn = false ∧ s.link.line = [] ∧ s.result.busy = true

/-! ## Words in which claims are stated -/

/-- What a piece of the machine answers, with every next state changed by `f`. -/
def mapNext (f : State → State) (o : Out) : Out :=
  match o with
  | .next t => .next (f t)
  | .fault r => .fault r
  | .refused r => .refused r

/-- AnsQ(p), the well-formed normal query answer (42_parser R197). -/
def ansQ (p : List Byte) : List Byte :=
  withChecksum ([0x70, 0x00, BitVec.ofNat 8 (p.length + 1)] ++ p)

/-- AnsQErr(s) and AnsC(s), the well-formed 3-byte answers (42_parser R197). -/
def ansShort (st : Byte) : List Byte := [0x70, st, 0x70 + st]

/-- The link steps in which the transport accepted these bytes. -/
def sentOk (bytes : List Byte) : List LinkEvent := bytes.map (fun b => LinkEvent.tx b .ok)

/-- The link steps in which these bytes were received. -/
def received (bytes : List Byte) : List LinkEvent := bytes.map (fun v => LinkEvent.rx (.byte v))

/-- The host presents an operation and the machine takes its next step. -/
def issue (i : Instr) (s : State) : Out :=
  match encode i with
  | .request req0 req1 data => step (hostPresent req0 req1 data s)
  | .frame _ _ => .next s

/-- `n` link steps in a row: `n` steps of a block that stays busy (00_scope R18). -/
def linkSteps : Nat → State → Out
  | 0, s => .next s
  | n + 1, s =>
      match linkStep s with
      | .next t => linkSteps n t
      | .fault r => .fault r
      | .refused r => .refused r

/-- How many answers the transport has given that the block has not taken. -/
def answered (s : State) : Nat :=
  s.link.txAnswers.length + s.link.rxStream.length

/-- Every link step the transport has answered, up to the end of the operation: each takes one answer. -/
def settle (s : State) : Out :=
  linkSteps (answered s) s

/-- A piece of the machine, and then the link steps that are answered. -/
def thenSettle (o : Out) : Out :=
  match o with
  | .next t => settle t
  | .fault r => .fault r
  | .refused r => .refused r

/-- The host presents an operation, the machine accepts it and takes every link step the transport has answered. -/
def perform (i : Instr) (s : State) : Out :=
  thenSettle (issue i s)

/-- The block has ended its operation with this kind: RESULT_KIND, RESULT_VALID = 1, BUSY = 0, and no link step
is pending (00_scope R18). -/
abbrev State.endedWith (t : State) (k : ResultKind) : Prop :=
  t.result.resultKind = k ∧ t.result.resultValid = true ∧ t.result.busy = false ∧
    t.seq.phase = .idle ∧ t.seq.cont = .none

end Sys2Proof.Machine
end

