-- ==== Sys2Proof/Certificates/Slice0/Obligations.lean ====
section
/-! DEFINITION. The statements for the provers, from the numbered rules of spec/ (OBLIGATIONS.json lists them).
`exec` runs an operation on the state acceptance prepared, up to its first link step; each link step after it is one
step of the machine, so an operation that uses the link ends `n` link steps later (R18, R292). `t = (s with …)` in a
conclusion is the frame: every field not named is unchanged. The hidden IDX, ACC, NEXP and RXBUF are named only where
a rule fixes them. -/

open Sys2Proof Sys2Proof.Machine

/-! ## Encoding -/

/-- Decoding an encoded well-formed instruction, of any row, gives it back. -/
def Obligations.DecodeOfEncodeIsIdentity : Prop :=
  ∀ i : Instr, i.wf = true → decode (encode i) = .ok i

/-- The bytes of a frame the decoder accepts are exactly the encoding of what it answers. -/
def Obligations.DecodedFrameReencodesToItsBytes : Prop :=
  ∀ (dir : FrameDir) (bytes : List Byte) (i : Instr),
    decode (.frame dir bytes) = .ok i → encode i = .frame dir bytes

/-- R113, R114 by arithmetic on the words: every OP selects its operation with the fields it reads, and no other
bit of the words matters. -/
def Obligations.RequestWordsSelectTheOperation : Prop :=
  ∀ (req0 req1 : HostWord) (data : List Byte), data.length = 259 →
    let func : Byte := BitVec.ofNat 8 (req0.toNat / 2 ^ 8)
    let d1 : Byte := BitVec.ofNat 8 (req0.toNat / 2 ^ 16)
    let d2 : Byte := BitVec.ofNat 8 (req0.toNat / 2 ^ 24)
    let n := req1.toNat % 512
    let dlen : Count := BitVec.ofNat 9 n
    let bytes := data.take (min n 259)
    decode (.request req0 req1 data) = .ok
      (match req0.toNat % 8 with
      | 0 => .chk dlen bytes
      | 1 => .bq func d1 d2
      | 2 => .bc func dlen bytes
      | 3 => .send
      | 4 => .pq
      | 5 => .pc
      | 6 => .xq func d1 d2
      | _ => .xc func dlen bytes)

/-- Words written out from the spec's encodings decode to the instructions they stand for, one at least of every row
of the table (95_test_vectors), among them request words with nonzero reserved bits; and the assembler's default
data bytes and pseudo-instructions (R118). Of the clauses on table bits, that a status of 0 is read as ANS_C and any
other as ANS_Q_ERR is the model's choice (log 9), and so is the numbering of the 48-bit rows, byte 0 highest (log 10). -/
def Obligations.SampleWordsDecodeToTheirRows : Prop :=
  decode (.request 0x00000000 0x00000002 [0xFF, 0x01]) = .ok (.chk 2 [0xFF, 0x01]) ∧
  decode (.request 0x00000000 0xFFFFFE00 []) = .ok (.chk 0 []) ∧
  decode (.request 0xFFFF0101 0 []) = .ok (.bq 0x01 0xFF 0xFF) ∧
  decode (.request 0x000000F9 0 []) = .ok (.bq 0x00 0x00 0x00) ∧
  decode (.request 0x00000502 1 [0x0C]) = .ok (.bc 0x05 1 [0x0C]) ∧
  decode (.request 0x00000003 0 []) = .ok .send ∧
  decode (.request 0x00000004 0 []) = .ok .pq ∧
  decode (.request 0x00000005 0 []) = .ok .pc ∧
  decode (.request 0x01003006 0 []) = .ok (.xq 0x30 0x00 0x01) ∧
  decode (.request 0x00000007 1 [0x01]) = .ok (.xc 0x00 1 [0x01]) ∧
  assemble (.bqDefault 0x01) = some (.request 0xFFFF0101 0 []) ∧
  assemble (.query 0x02) = some (.request 0xFFFF0206 0 []) ∧
  assemble (.control 0x00 [0x01]) = some (.request 0x00000007 1 [0x01]) ∧
  decodeTableWord 32 0xFFFF0206 = some (.xq 0x02 0xFF 0xFF) ∧
  decodeTableWord 24 0x700373 = some (.ansQErr 0x03 0x73) ∧
  decodeTableWord 24 0x700070 = some (.ansC 0x00 0x70) ∧
  decodeTableWord 48 0x830002FFFF83 = some (.qreq 0x02 0xFF 0xFF 0x83) ∧
  decodeTableWord 48 0x8C000002018F = some (.creq 0x00 0x02 [0x01] 0x8F) ∧
  decodeTableWord 48 0x70000303047A = some (.ansQOk 0x03 [0x03, 0x04] 0x7A)

/-! ## Checksum -/

/-- R141: the concatenation law, the running sum, independence of order, and R145's accumulator. -/
def Obligations.ChecksumOfConcatenation : Prop :=
  (∀ a b : List Byte, (checksum (a ++ b)).toNat = ((checksum a).toNat + (checksum b).toNat) % 256) ∧
  (∀ (s : List Byte) (v : Byte), (checksum (s ++ [v])).toNat = ((checksum s).toNat + v.toNat) % 256) ∧
  (∀ a b : List Byte, a.Perm b → checksum a = checksum b) ∧
  (∀ s : List Byte, accumulate s = checksum s)

/-- R140: the sum modulo 256, written by recursion. -/
def Obligations.ChecksumIsTheSumModulo256 : Prop :=
  checksum [] = 0 ∧ ∀ (v : Byte) (s : List Byte), (checksum (v :: s)).toNat = (v.toNat + (checksum s).toNat) % 256

/-- R142: the validator is the predicate the rule writes. -/
def Obligations.ValidatorAcceptsExactlyTheRule : Prop :=
  ∀ fr : List Byte, validFrame fr = true ↔
    1 ≤ fr.length ∧ ∃ c : Byte, fr[fr.length - 1]? = some c ∧ checksum (fr.take (fr.length - 1)) = c

/-- R143: whatever state it runs in and whatever the transport answers, a build that leaves a frame leaves a valid
one, and the link steps that follow keep it. -/
def Obligations.BuiltFramesValidate : Prop :=
  (∀ (f d1 d2 : Byte) (s t u : State) (n : Nat),
    exec (.bq f d1 d2) s = .next t ∨ exec (.xq f d1 d2) s = .next t → linkSteps n t = .next u →
    validFrame t.frameBytes = true ∧ validFrame u.frameBytes = true) ∧
  (∀ (f : Byte) (dlen : Count) (data : List Byte) (s t u : State) (n : Nat), dlen.toNat ≤ 254 →
    exec (.bc f dlen data) s = .next t ∨ exec (.xc f dlen data) s = .next t → linkSteps n t = .next u →
    validFrame t.frameBytes = true ∧ validFrame u.frameBytes = true)

/-- R146: the three corruptions the check accepts. -/
def Obligations.SumPreservingCorruptionsStayValid : Prop :=
  ∀ (pre mid post : List Byte) (x y c k : Byte), validFrame (pre ++ [x] ++ mid ++ [y] ++ post ++ [c]) = true →
    validFrame (pre ++ [y] ++ mid ++ [x] ++ post ++ [c]) = true ∧
    validFrame (pre ++ [x + k] ++ mid ++ [y - k] ++ post ++ [c]) = true ∧
    validFrame (pre ++ [x + k] ++ mid ++ [y] ++ post ++ [c + k]) = true

/-- R144: CHECKSUM (OP = 0; FUNC, D1, D2 ignored) of LDLEN ≤ 259 bytes ends OK with their checksum, above that
LENGTH; nothing else changes. -/
def Obligations.ChkWritesTheChecksumOrLength : Prop :=
  ∀ (dlen : Count) (data : List Byte) (s : State), (Instr.chk dlen data).wf = true →
    (∀ func d1 d2 : Byte,
      decode (.request (packReq0 0 func d1 d2) (packReq1 dlen) data) = .ok (.chk dlen data)) ∧
    (dlen.toNat ≤ 259 →
      exec (.chk dlen data) s = .next { s with
        result := { s.result with calcCk := checksum data, resultKind := .ok, resultValid := true, busy := false }
        seq := { s.seq with acc := checksum data, phase := .idle, cont := .none } }) ∧
    (259 < dlen.toNat →
      exec (.chk dlen data) s = .next { s with
        result := { s.result with resultKind := .length, resultValid := true, busy := false }
        seq := { s.seq with phase := .idle, cont := .none } })

/-! ## The framer -/

/-- R160: BUILD_QUERY (OP = 1; DLEN and DATA ignored) leaves `83 00 f d1 d2 cs` in FRAME, 6 in FRAME_LEN, cs in
CALC_CK, and ends OK; no other byte of FRAME and no other field changes. -/
def Obligations.BqBuildsTheQueryFrame : Prop :=
  ∀ (f d1 d2 : Byte) (s : State),
    (∀ (req1 : HostWord) (data : List Byte),
      decode (.request (packReq0 1 f d1 d2) req1 data) = .ok (.bq f d1 d2)) ∧
    ∃ t : State, exec (.bq f d1 d2) s = .next t ∧
    t.frameBytes = [0x83, 0x00, f, d1, d2, 0x83 + f + d1 + d2] ∧
    (∀ j, 6 ≤ j → t.bufs.frame.read j = s.bufs.frame.read j) ∧
    t = { s with
      bufs := { s.bufs with frame := t.bufs.frame }
      result := { s.result with
        frameLen := 6, calcCk := 0x83 + f + d1 + d2, resultKind := .ok, resultValid := true, busy := false }
      seq := { s.seq with acc := t.seq.acc, phase := .idle, cont := .none } }

/-- R161: BUILD_CONTROL (OP = 2; D1 and D2 ignored) of LDLEN ≤ 254 bytes leaves `8C 00 f L d.. cs` in FRAME; above
that FRAME_LEN = 0 and LENGTH, and FRAME is not written. -/
def Obligations.BcBuildsTheControlFrameOrLength : Prop :=
  ∀ (f : Byte) (dlen : Count) (data : List Byte) (s : State), (Instr.bc f dlen data).wf = true →
    (∀ d1 d2 : Byte,
      decode (.request (packReq0 2 f d1 d2) (packReq1 dlen) data) = .ok (.bc f dlen data)) ∧
    (dlen.toNat ≤ 254 → ∃ t : State, exec (.bc f dlen data) s = .next t ∧
      let cs := checksum ([0x8C, 0x00, f, BitVec.ofNat 8 (dlen.toNat + 1)] ++ data)
      t.frameBytes = [0x8C, 0x00, f, BitVec.ofNat 8 (dlen.toNat + 1)] ++ data ++ [cs] ∧
      (∀ j, dlen.toNat + 5 ≤ j → t.bufs.frame.read j = s.bufs.frame.read j) ∧
      t = { s with
        bufs := { s.bufs with frame := t.bufs.frame }
        result := { s.result with
          frameLen := dlen + 5, calcCk := cs, resultKind := .ok, resultValid := true, busy := false }
        seq := { s.seq with acc := t.seq.acc, phase := .idle, cont := .none } }) ∧
    (254 < dlen.toNat →
      exec (.bc f dlen data) s = .next { s with
        result := { s.result with frameLen := 0, resultKind := .length, resultValid := true, busy := false }
        seq := { s.seq with phase := .idle, cont := .none } })

/-- R162, R292: a transport that accepts every byte of FRAME: SEND ends OK FRAME_LEN link steps after acceptance, at
once with FRAME_LEN = 0. -/
def Obligations.SendTransmitsTheFrame : Prop :=
  ∀ (s : State) (rest : List TxAnswer), s.result.frameLen.toNat ≤ 259 →
    s.link.txAnswers = List.replicate s.result.frameLen.toNat .ok ++ rest →
    ∃ a t : State, exec .send s = .next a ∧ linkSteps s.result.frameLen.toNat a = .next t ∧ t.endedWith .ok ∧
      t = { s with
        link := { s.link with txAnswers := rest, history := s.link.history ++ sentOk s.frameBytes }
        result := { s.result with
          txCount := s.result.frameLen, resultKind := .ok, resultValid := true, busy := false }
        seq := t.seq }

/-- R162, R255: a write failure on byte k ends SEND with IO, IO_DIR = 0 and TX_COUNT = k; the k bytes before it
stay sent, nothing follows. -/
def Obligations.SendStopsAtAWriteFailure : Prop :=
  ∀ (s : State) (k : Nat) (b : Byte) (rest : List TxAnswer), s.result.frameLen.toNat ≤ 259 →
    s.frameBytes[k]? = some b → s.link.txAnswers = List.replicate k .ok ++ .ioerr :: rest →
    ∃ a t : State, exec .send s = .next a ∧ linkSteps (k + 1) a = .next t ∧ t.endedWith .io ∧
      t = { s with
        link := { s.link with
          txAnswers := rest
          history := s.link.history ++ sentOk (s.frameBytes.take k) ++ [LinkEvent.tx b .ioerr] }
        result := { s.result with
          txCount := BitVec.ofNat 9 k, ioDir := .transmit, resultKind := .io, resultValid := true, busy := false }
        seq := t.seq }

/-- R162, R288 (log 6): k link steps into its frame, k < FRAME_LEN, SEND has sent k bytes and stands at byte k: no
result is recorded and BUSY is as it was. Without a further answer it stays there. -/
def Obligations.SendWaitsForTheTransport : Prop :=
  ∀ (s : State) (k : Nat) (rest : List TxAnswer), s.result.frameLen.toNat ≤ 259 → k < s.result.frameLen.toNat →
    s.link.txAnswers = List.replicate k .ok ++ rest →
    ∃ a t : State, exec .send s = .next a ∧ linkSteps k a = .next t ∧ (rest = [] → linkStep t = .next t) ∧
      t = { s with
        link := { s.link with txAnswers := rest, history := s.link.history ++ sentOk (s.frameBytes.take k) }
        seq := { s.seq with cont := .send none, idx := BitVec.ofNat 9 k } }

/-- R290: CHK, SEND, PQ and PC leave FRAME and FRAME_LEN alone, and so does every link step. -/
def Obligations.FramePersistsOverOtherOperations : Prop :=
  (∀ (i : Instr) (s t : State), (∃ dlen data, i = .chk dlen data) ∨ i = .send ∨ i = .pq ∨ i = .pc →
    exec i s = .next t → t.bufs.frame = s.bufs.frame ∧ t.result.frameLen = s.result.frameLen) ∧
  (∀ s t : State, linkStep s = .next t → t.bufs.frame = s.bufs.frame ∧ t.result.frameLen = s.result.frameLen)

/-! ## The parser -/

/-- R192: the control status table, with the codes of R37, and that a valid control answer of this status is
decoded by it, the raw byte kept in STATUS_RAW. -/
def Obligations.ControlStatusTable : Prop :=
  ∀ st : Byte, st ≠ 0x00 →
    (statusCodeCode (decodeCtl st)).toNat = (if st.toNat ≤ 4 then st.toNat else 5) ∧
    ∀ (s : State) (rest : List RxAnswer), s.link.rxStream = (ansShort st).map RxAnswer.byte ++ rest →
      ∃ a t : State, exec .pc s = .next a ∧ linkSteps 3 a = .next t ∧ t.endedWith .status ∧
        t.result.statusCode = decodeCtl st ∧ t.result.statusRaw = st

/-- R193: the query status table, in which 0x01 and 0x02 are Unknown, and that a valid abnormal query answer of this
status is decoded by it. -/
def Obligations.QueryStatusTable : Prop :=
  ∀ st : Byte, st ≠ 0x00 →
    (statusCodeCode (decodeQry st)).toNat = (if st = 0x03 then 3 else if st = 0x04 then 4 else 5) ∧
    ∀ (s : State) (rest : List RxAnswer), s.link.rxStream = (ansShort st).map RxAnswer.byte ++ rest →
      ∃ a t : State, exec .pq s = .next a ∧ linkSteps 3 a = .next t ∧ t.endedWith .status ∧
        t.result.statusCode = decodeQry st ∧ t.result.statusRaw = st

/-- R191: three head bytes of which the first is not 0x70 end either parse with FRAMING; no checksum is computed, no
status is decoded, and every later byte stays in the stream. On the record acceptance leaves (R43), RX_CK and CALC_CK
are then 0, STATUS_CODE is None and RX_COUNT is 3. -/
def Obligations.WrongHeaderEndsWithFraming : Prop :=
  ∀ (i : Instr) (s : State) (h0 h1 h2 : Byte) (rest : List RxAnswer), i = .pq ∨ i = .pc → h0 ≠ 0x70 →
    s.link.rxStream = [RxAnswer.byte h0, .byte h1, .byte h2] ++ rest →
    ∃ a t : State, exec i s = .next a ∧ linkSteps 3 a = .next t ∧ t.endedWith .framing ∧
      (s.result = s.result.atAcceptance →
        t.result.rxCk = 0 ∧ t.result.calcCk = 0 ∧ t.result.statusCode = .none ∧ t.result.rxCount = 3) ∧
      t = { s with
        link := { s.link with rxStream := rest, history := s.link.history ++ received [h0, h1, h2] }
        bufs := { s.bufs with rxbuf := t.bufs.rxbuf }
        result := { s.result with
          hdrRaw := h0, statusRaw := h1, b2Raw := h2, rxCount := s.result.rxCount + 3
          resultKind := .framing, resultValid := true, busy := false }
        seq := t.seq }

/-- R190, R255: a read failure before the head is complete ends either parse with IO, IO_DIR = 1; RX_COUNT counts
the bytes taken and the head fields are not written. -/
def Obligations.HeadReadFailureEndsWithIo : Prop :=
  ∀ (i : Instr) (s : State) (bytes : List Byte) (rest : List RxAnswer), i = .pq ∨ i = .pc → bytes.length < 3 →
    s.link.rxStream = bytes.map RxAnswer.byte ++ .ioerr :: rest →
    ∃ a t : State, exec i s = .next a ∧ linkSteps (bytes.length + 1) a = .next t ∧ t.endedWith .io ∧
      t = { s with
        link := { s.link with
          rxStream := rest, history := s.link.history ++ received bytes ++ [LinkEvent.rx .ioerr] }
        bufs := { s.bufs with rxbuf := t.bufs.rxbuf }
        result := { s.result with
          ioDir := .receive, rxCount := s.result.rxCount + BitVec.ofNat 9 bytes.length
          resultKind := .io, resultValid := true, busy := false }
        seq := t.seq }

/-- R190, R288 (log 6): fewer than three link steps into its head either parse has taken and counted the bytes, the
head fields are not written, no outcome is recorded and BUSY is as it was. Without a further answer it stays there. -/
def Obligations.ParseWaitsForTheHead : Prop :=
  ∀ (i : Instr) (s : State) (bytes : List Byte) (rest : List RxAnswer), i = .pq ∨ i = .pc → bytes.length < 3 →
    s.link.rxStream = bytes.map RxAnswer.byte ++ rest →
    ∃ a t : State, exec i s = .next a ∧ linkSteps bytes.length a = .next t ∧ (rest = [] → linkStep t = .next t) ∧
      t.seq.cont = .head (if i = .pq then .query else .control) ∧
      t = { s with
        link := { s.link with rxStream := rest, history := s.link.history ++ received bytes }
        bufs := { s.bufs with rxbuf := t.bufs.rxbuf }
        result := { s.result with rxCount := s.result.rxCount + BitVec.ofNat 9 bytes.length }
        seq := { s.seq with cont := t.seq.cont, idx := BitVec.ofNat 9 bytes.length } }

/-- R194, abnormal path: the third byte is the checksum; CHECKSUM if it is wrong, else STATUS with DecodeQry. Never
OK, and PAYLOAD and PLEN are not written. -/
def Obligations.PqAbnormalAnswer : Prop :=
  ∀ (s : State) (st c : Byte) (rest : List RxAnswer), st ≠ 0x00 →
    s.link.rxStream = [RxAnswer.byte 0x70, .byte st, .byte c] ++ rest →
    ∃ a t : State, exec .pq s = .next a ∧ linkSteps 3 a = .next t ∧
      t.endedWith (if c = 0x70 + st then .status else .checksum) ∧
      t = { s with
        link := { s.link with rxStream := rest, history := s.link.history ++ received [0x70, st, c] }
        bufs := { s.bufs with rxbuf := t.bufs.rxbuf }
        result := { s.result with
          hdrRaw := 0x70, statusRaw := st, b2Raw := c, rxCount := s.result.rxCount + 3
          rxCk := c, calcCk := 0x70 + st
          statusCode := if c = 0x70 + st then decodeQry st else s.result.statusCode
          resultKind := if c = 0x70 + st then .status else .checksum, resultValid := true, busy := false }
        seq := t.seq }

/-- R194, normal path: N = payload and checksum. A right checksum ends OK with the payload in PAYLOAD and its
length in PLEN; a wrong one ends CHECKSUM with PAYLOAD and PLEN unchanged. -/
def Obligations.PqNormalAnswer : Prop :=
  ∀ (s : State) (n : Byte) (p : List Byte) (c : Byte) (rest : List RxAnswer), n.toNat = p.length + 1 →
    s.link.rxStream = ([0x70, 0x00, n] ++ p ++ [c]).map RxAnswer.byte ++ rest →
    let ck := checksum ([0x70, 0x00, n] ++ p)
    ∃ a t : State, exec .pq s = .next a ∧ linkSteps (3 + n.toNat) a = .next t ∧
      (c = ck → t.endedWith .ok ∧ t.payloadBytes = p ∧
        (∀ j, p.length ≤ j → t.bufs.payload.read j = s.bufs.payload.read j)) ∧
      (c ≠ ck → t.endedWith .checksum ∧ t.bufs.payload = s.bufs.payload) ∧
      t = { s with
        link := { s.link with
          rxStream := rest, history := s.link.history ++ received ([0x70, 0x00, n] ++ p ++ [c]) }
        bufs := { s.bufs with rxbuf := t.bufs.rxbuf, payload := t.bufs.payload }
        result := { s.result with
          hdrRaw := 0x70, statusRaw := 0x00, b2Raw := n
          rxCount := s.result.rxCount + 3 + BitVec.ofNat 9 n.toNat
          rxCk := c, calcCk := ck
          plen := if c = ck then BitVec.ofNat 8 p.length else s.result.plen
          statusCode := if c = ck then .completed else s.result.statusCode
          resultKind := if c = ck then .ok else .checksum, resultValid := true, busy := false }
        seq := t.seq }

/-- R196: the answer `70 00 00` always ends CHECKSUM, computed 0x70, received 0x00, three bytes taken. -/
def Obligations.PqLengthZeroEndsWithChecksum : Prop :=
  ∀ (s : State) (rest : List RxAnswer), s.result.rxCount = 0 →
    s.link.rxStream = [RxAnswer.byte 0x70, .byte 0x00, .byte 0x00] ++ rest →
    ∃ a t : State, exec .pq s = .next a ∧ linkSteps 3 a = .next t ∧ t.endedWith .checksum ∧
      t.result.calcCk = 0x70 ∧ t.result.rxCk = 0x00 ∧
      t.result.rxCount = 3 ∧ t.link.rxStream = rest ∧ t.result.plen = s.result.plen

/-- R194, R255: a read failure inside the body ends IO with IO_DIR = 1; the head fields are kept, no checksum is
compared, nothing of PAYLOAD is written. -/
def Obligations.PqBodyReadFailureEndsWithIo : Prop :=
  ∀ (s : State) (n : Byte) (bytes : List Byte) (rest : List RxAnswer), bytes.length < n.toNat →
    s.link.rxStream = ([0x70, 0x00, n] ++ bytes).map RxAnswer.byte ++ .ioerr :: rest →
    ∃ a t : State, exec .pq s = .next a ∧ linkSteps (bytes.length + 4) a = .next t ∧ t.endedWith .io ∧
      t = { s with
        link := { s.link with
          rxStream := rest
          history := s.link.history ++ received ([0x70, 0x00, n] ++ bytes) ++ [LinkEvent.rx .ioerr] }
        bufs := { s.bufs with rxbuf := t.bufs.rxbuf }
        result := { s.result with
          hdrRaw := 0x70, statusRaw := 0x00, b2Raw := n, ioDir := .receive
          rxCount := s.result.rxCount + 3 + BitVec.ofNat 9 bytes.length
          resultKind := .io, resultValid := true, busy := false }
        seq := t.seq }

/-- R194, R286, R288 (log 6): before the last of the bytes a normal query answer announces, the parser has taken and
counted what came and stands in the body: no outcome is recorded and BUSY is as it was. Without a further answer it
stays there. -/
def Obligations.PqWaitsForTheAnnouncedBody : Prop :=
  ∀ (s : State) (n : Byte) (bytes : List Byte) (rest : List RxAnswer), bytes.length < n.toNat →
    s.link.rxStream = ([0x70, 0x00, n] ++ bytes).map RxAnswer.byte ++ rest →
    ∃ a t : State, exec .pq s = .next a ∧ linkSteps (3 + bytes.length) a = .next t ∧
      (rest = [] → linkStep t = .next t) ∧ t.seq.cont = .body ∧ t.seq.phase = s.seq.phase ∧
      t = { s with
        link := { s.link with
          rxStream := rest, history := s.link.history ++ received ([0x70, 0x00, n] ++ bytes) }
        bufs := { s.bufs with rxbuf := t.bufs.rxbuf }
        result := { s.result with
          hdrRaw := 0x70, statusRaw := 0x00, b2Raw := n
          rxCount := s.result.rxCount + 3 + BitVec.ofNat 9 bytes.length }
        seq := t.seq }

/-- R195: three bytes with header 0x70 end PARSE_CONTROL: CHECKSUM if the third is not the checksum of the first
two, whatever the status; else OK for status 0x00 and STATUS with DecodeCtl for any other. -/
def Obligations.PcAnswer : Prop :=
  ∀ (s : State) (st c : Byte) (rest : List RxAnswer),
    s.link.rxStream = [RxAnswer.byte 0x70, .byte st, .byte c] ++ rest →
    let kind : ResultKind := if c ≠ 0x70 + st then .checksum else if st = 0x00 then .ok else .status
    ∃ a t : State, exec .pc s = .next a ∧ linkSteps 3 a = .next t ∧ t.endedWith kind ∧
      t = { s with
        link := { s.link with rxStream := rest, history := s.link.history ++ received [0x70, st, c] }
        bufs := { s.bufs with rxbuf := t.bufs.rxbuf }
        result := { s.result with
          hdrRaw := 0x70, statusRaw := st, b2Raw := c, rxCount := s.result.rxCount + 3
          rxCk := c, calcCk := 0x70 + st
          statusCode := if c ≠ 0x70 + st then s.result.statusCode
            else if st = 0x00 then .completed else decodeCtl st
          resultKind := kind, resultValid := true, busy := false }
        seq := t.seq }

/-- R197: the well-formed answers are parsed back, and every later byte stays unread. -/
def Obligations.WellFormedAnswersRoundTrip : Prop :=
  ∀ (s : State) (rest : List RxAnswer), s.result.rxCount = 0 →
    (∀ p : List Byte, p.length ≤ 254 → s.link.rxStream = (ansQ p).map RxAnswer.byte ++ rest →
      ∃ a t : State, exec .pq s = .next a ∧ linkSteps (p.length + 4) a = .next t ∧ t.endedWith .ok ∧
        t.payloadBytes = p ∧ t.result.rxCount = BitVec.ofNat 9 (p.length + 4) ∧ t.link.rxStream = rest) ∧
    (∀ st : Byte, st ≠ 0x00 → s.link.rxStream = (ansShort st).map RxAnswer.byte ++ rest →
      ∃ a t : State, exec .pq s = .next a ∧ linkSteps 3 a = .next t ∧ t.endedWith .status ∧
        t.result.statusCode = decodeQry st ∧
        t.link.rxStream = rest) ∧
    (∀ st : Byte, s.link.rxStream = (ansShort st).map RxAnswer.byte ++ rest →
      ∃ a t : State, exec .pc s = .next a ∧ linkSteps 3 a = .next t ∧ t.link.rxStream = rest ∧
        (st = 0x00 → t.endedWith .ok ∧ t.result.statusCode = .completed) ∧
        (st ≠ 0x00 → t.endedWith .status ∧ t.result.statusCode = decodeCtl st))

/-- R40, R83: PAYLOAD persists until the next successful query parse: a step that is no reset either leaves it alone
or ends an operation OK with status Completed. -/
def Obligations.PayloadPersistsUntilASuccessfulParse : Prop :=
  ∀ s t : State, s.resetIn = false → step s = .next t →
    t.bufs.payload = s.bufs.payload ∨ (t.endedWith .ok ∧ t.result.statusCode = .completed)

/-! ## The exchanges -/

/-- R230: an exchange whose six request bytes are all accepted is, six link steps after acceptance, where PARSE_QUERY
begins in the state in which they are sent; CALC_CK is not written by the build. -/
def Obligations.XqSendsThenParses : Prop :=
  ∀ (f d1 d2 : Byte) (s : State) (rest : List TxAnswer),
    s.link.txAnswers = List.replicate 6 .ok ++ rest →
    ∃ a t : State, exec (.xq f d1 d2) s = .next a ∧ linkSteps 6 a = exec .pq t ∧
      t.frameBytes = [0x83, 0x00, f, d1, d2, 0x83 + f + d1 + d2] ∧
      (∀ j, 6 ≤ j → t.bufs.frame.read j = s.bufs.frame.read j) ∧
      t = { s with
        link := { s.link with
          txAnswers := rest
          history := s.link.history ++ sentOk [0x83, 0x00, f, d1, d2, 0x83 + f + d1 + d2] }
        bufs := { s.bufs with frame := t.bufs.frame }
        result := { s.result with frameLen := 6, txCount := 6 }
        seq := t.seq }

/-- R231: the same for CONTROL_EXCHANGE and PARSE_CONTROL; LENGTH, with FRAME_LEN = 0, nothing sent and nothing
read, above 254 data bytes. -/
def Obligations.XcSendsThenParsesOrLength : Prop :=
  ∀ (f : Byte) (dlen : Count) (data : List Byte) (s : State), (Instr.xc f dlen data).wf = true →
    (∀ rest : List TxAnswer, dlen.toNat ≤ 254 →
      s.link.txAnswers = List.replicate (dlen.toNat + 5) .ok ++ rest →
      let fr := [0x8C, 0x00, f, BitVec.ofNat 8 (dlen.toNat + 1)] ++ data ++
        [checksum ([0x8C, 0x00, f, BitVec.ofNat 8 (dlen.toNat + 1)] ++ data)]
      ∃ a t : State, exec (.xc f dlen data) s = .next a ∧ linkSteps (dlen.toNat + 5) a = exec .pc t ∧
        t.frameBytes = fr ∧
        (∀ j, dlen.toNat + 5 ≤ j → t.bufs.frame.read j = s.bufs.frame.read j) ∧
        t = { s with
          link := { s.link with txAnswers := rest, history := s.link.history ++ sentOk fr }
          bufs := { s.bufs with frame := t.bufs.frame }
          result := { s.result with frameLen := dlen + 5, txCount := dlen + 5 }
          seq := t.seq }) ∧
    (254 < dlen.toNat →
      exec (.xc f dlen data) s = .next { s with
        result := { s.result with frameLen := 0, resultKind := .length, resultValid := true, busy := false }
        seq := { s.seq with phase := .idle, cont := .none } })

/-- R230, R231, R255, R258: a write failure on byte k of its request ends either exchange with IO (write), IO_DIR = 0
and TX_COUNT = k; nothing is read. -/
def Obligations.ExchangeWriteFailureReadsNothing : Prop :=
  (∀ (f d1 d2 : Byte) (s : State) (k : Nat) (b : Byte) (rest : List TxAnswer),
    let fr := [0x83, 0x00, f, d1, d2, 0x83 + f + d1 + d2]
    fr[k]? = some b → s.link.txAnswers = List.replicate k .ok ++ .ioerr :: rest →
    ∃ a t : State, exec (.xq f d1 d2) s = .next a ∧ linkSteps (k + 1) a = .next t ∧ t.endedWith .io ∧
      t.frameBytes = fr ∧ (∀ j, 6 ≤ j → t.bufs.frame.read j = s.bufs.frame.read j) ∧
      t = { s with
        link := { s.link with
          txAnswers := rest
          history := s.link.history ++ sentOk (fr.take k) ++ [LinkEvent.tx b .ioerr] }
        bufs := { s.bufs with frame := t.bufs.frame }
        result := { s.result with
          frameLen := 6, txCount := BitVec.ofNat 9 k, ioDir := .transmit
          resultKind := .io, resultValid := true, busy := false }
        seq := t.seq }) ∧
  (∀ (f : Byte) (dlen : Count) (data : List Byte) (s : State) (k : Nat) (b : Byte) (rest : List TxAnswer),
    (Instr.xc f dlen data).wf = true → dlen.toNat ≤ 254 →
    let fr := [0x8C, 0x00, f, BitVec.ofNat 8 (dlen.toNat + 1)] ++ data ++
      [checksum ([0x8C, 0x00, f, BitVec.ofNat 8 (dlen.toNat + 1)] ++ data)]
    fr[k]? = some b → s.link.txAnswers = List.replicate k .ok ++ .ioerr :: rest →
    ∃ a t : State, exec (.xc f dlen data) s = .next a ∧ linkSteps (k + 1) a = .next t ∧ t.endedWith .io ∧
      t.frameBytes = fr ∧ (∀ j, dlen.toNat + 5 ≤ j → t.bufs.frame.read j = s.bufs.frame.read j) ∧
      t = { s with
        link := { s.link with
          txAnswers := rest
          history := s.link.history ++ sentOk (fr.take k) ++ [LinkEvent.tx b .ioerr] }
        bufs := { s.bufs with frame := t.bufs.frame }
        result := { s.result with
          frameLen := dlen + 5, txCount := BitVec.ofNat 9 k, ioDir := .transmit
          resultKind := .io, resultValid := true, busy := false }
        seq := t.seq })

/-- R230: XQ against a device that accepts the request and answers AnsQ(p) ends OK with the payload. -/
def Obligations.XqCompletesOnAWellFormedAnswer : Prop :=
  ∀ (f d1 d2 : Byte) (s : State) (p : List Byte) (tx : List TxAnswer) (rest : List RxAnswer), p.length ≤ 254 →
    s.link.txAnswers = List.replicate 6 .ok ++ tx → s.link.rxStream = (ansQ p).map RxAnswer.byte ++ rest →
    let fr := [0x83, 0x00, f, d1, d2, 0x83 + f + d1 + d2]
    let ck := checksum ([0x70, 0x00, BitVec.ofNat 8 (p.length + 1)] ++ p)
    ∃ a t : State, exec (.xq f d1 d2) s = .next a ∧ linkSteps (6 + (p.length + 4)) a = .next t ∧ t.endedWith .ok ∧
      t.frameBytes = fr ∧ t.payloadBytes = p ∧
      (∀ j, 6 ≤ j → t.bufs.frame.read j = s.bufs.frame.read j) ∧
      (∀ j, p.length ≤ j → t.bufs.payload.read j = s.bufs.payload.read j) ∧
      t = { s with
        link := { s.link with
          txAnswers := tx, rxStream := rest
          history := s.link.history ++ sentOk fr ++ received (ansQ p) }
        bufs := { s.bufs with frame := t.bufs.frame, rxbuf := t.bufs.rxbuf, payload := t.bufs.payload }
        result := { s.result with
          frameLen := 6, txCount := 6
          hdrRaw := 0x70, statusRaw := 0x00, b2Raw := BitVec.ofNat 8 (p.length + 1)
          rxCount := s.result.rxCount + BitVec.ofNat 9 (p.length + 4), rxCk := ck, calcCk := ck
          plen := BitVec.ofNat 8 p.length, statusCode := .completed
          resultKind := .ok, resultValid := true, busy := false }
        seq := t.seq }

/-- R231: XC against a device that accepts the request and answers AnsC(st) ends OK for st = 0 and else STATUS. -/
def Obligations.XcCompletesOnAWellFormedAnswer : Prop :=
  ∀ (f : Byte) (dlen : Count) (data : List Byte) (s : State) (st : Byte) (tx : List TxAnswer)
    (rest : List RxAnswer), (Instr.xc f dlen data).wf = true → dlen.toNat ≤ 254 →
    s.link.txAnswers = List.replicate (dlen.toNat + 5) .ok ++ tx →
    s.link.rxStream = (ansShort st).map RxAnswer.byte ++ rest →
    let fr := [0x8C, 0x00, f, BitVec.ofNat 8 (dlen.toNat + 1)] ++ data ++
      [checksum ([0x8C, 0x00, f, BitVec.ofNat 8 (dlen.toNat + 1)] ++ data)]
    ∃ a t : State, exec (.xc f dlen data) s = .next a ∧ linkSteps (dlen.toNat + 5 + 3) a = .next t ∧
      t.endedWith (if st = 0x00 then .ok else .status) ∧ t.frameBytes = fr ∧
      (∀ j, dlen.toNat + 5 ≤ j → t.bufs.frame.read j = s.bufs.frame.read j) ∧
      t = { s with
        link := { s.link with
          txAnswers := tx, rxStream := rest
          history := s.link.history ++ sentOk fr ++ received (ansShort st) }
        bufs := { s.bufs with frame := t.bufs.frame, rxbuf := t.bufs.rxbuf }
        result := { s.result with
          frameLen := dlen + 5, txCount := dlen + 5
          hdrRaw := 0x70, statusRaw := st, b2Raw := 0x70 + st
          rxCount := s.result.rxCount + 3, rxCk := 0x70 + st, calcCk := 0x70 + st
          statusCode := if st = 0x00 then .completed else decodeCtl st
          resultKind := if st = 0x00 then .ok else .status, resultValid := true, busy := false }
        seq := t.seq }

/-- R78, R79, on the record of link steps (log 6): whatever the transport answers and however many link
steps an exchange has taken, it has offered a prefix of its frame in index order and read nothing unless every byte of
the frame was accepted. -/
def Obligations.ExchangesWriteBeforeTheyRead : Prop :=
  ∀ (i : Instr) (s a t : State) (n : Nat), (∃ f d1 d2, i = .xq f d1 d2) ∨ (∃ f dlen data, i = .xc f dlen data) →
    exec i s = .next a → linkSteps n a = .next t →
    ∃ (sent : List Byte) (failed : List LinkEvent) (got : List RxAnswer),
      t.link.history = s.link.history ++ sentOk sent ++ failed ++ got.map LinkEvent.rx ∧
      sent <+: t.frameBytes ∧ (failed = [] ∨ ∃ b, failed = [LinkEvent.tx b .ioerr]) ∧
      (got ≠ [] → sent = t.frameBytes ∧ failed = [])

/-- R232: with the request accepted, an exchange leaves what the three separate operations leave, but for
TX_COUNT, which only the exchange reports. The exchange may be waiting, as the last operation then is. -/
def Obligations.QueryExchangeIsBuildSendParse : Prop :=
  ∀ (f d1 d2 : Byte) (s : State) (tx : List TxAnswer),
    s.resetIn = false → s.link.line = [] → s.result.busy = false →
    s.link.txAnswers = List.replicate 6 .ok ++ tx →
    ∃ a b c x : State,
      perform (.bq f d1 d2) s = .next a ∧ perform .send a = .next b ∧ perform .pq b = .next c ∧
      perform (.xq f d1 d2) s = .next x ∧
      x.result.txCount = 6 ∧ x.result = { c.result with txCount := 6 } ∧ c.result.txCount = 0 ∧
      x.frameBytes = c.frameBytes ∧ x.bufs.frame = c.bufs.frame ∧ x.bufs.payload = c.bufs.payload ∧
      x.link = c.link

/-- R232 for the control operations, with a LENGTH of BC making SEND transmit nothing. -/
def Obligations.ControlExchangeIsBuildSendParse : Prop :=
  ∀ (f : Byte) (dlen : Count) (data : List Byte) (s : State), (Instr.xc f dlen data).wf = true →
    s.resetIn = false → s.link.line = [] → s.result.busy = false →
    (∀ tx : List TxAnswer, dlen.toNat ≤ 254 →
      s.link.txAnswers = List.replicate (dlen.toNat + 5) .ok ++ tx →
      ∃ a b c x : State,
        perform (.bc f dlen data) s = .next a ∧ perform .send a = .next b ∧ perform .pc b = .next c ∧
        perform (.xc f dlen data) s = .next x ∧
        x.result = { c.result with txCount := dlen + 5 } ∧ c.result.txCount = 0 ∧
        x.bufs.frame = c.bufs.frame ∧ x.bufs.payload = c.bufs.payload ∧ x.link = c.link) ∧
    (254 < dlen.toNat → ∃ a b : State,
      perform (.bc f dlen data) s = .next a ∧ a.endedWith .length ∧ perform .send a = .next b ∧ b.endedWith .ok ∧
        b.result.txCount = 0 ∧ b.link = s.link)

/-! ## The frames of the wire -/

/-- R101, R102 with R162: a request frame on the link is the send stage that holds it (log 8); accepted whole, its
bytes are sent in order, one a link step of which this is the first, and then a SEND ends OK and an exchange goes on
as the parse of its kind. -/
def Obligations.OfferedRequestFrameIsTransmitted : Prop :=
  ∀ (i : Instr) (s : State) (rest : List TxAnswer),
    (∃ f a b c, i = .qreq f a b c) ∨ (∃ f l d c, i = .creq f l d c) → i.wf = true →
    s.seq.idx = 0 → s.result.frameLen.toNat ≤ 259 → s.frameBytes = wireBytes i →
    s.link.txAnswers = List.replicate s.result.frameLen.toNat .ok ++ rest →
    (s.seq.cont = .send none → ∃ a t : State, exec i s = .next a ∧
      linkSteps (s.result.frameLen.toNat - 1) a = .next t ∧ t.endedWith .ok ∧
      t = { s with
        link := { s.link with txAnswers := rest, history := s.link.history ++ sentOk (wireBytes i) }
        result := { s.result with
          txCount := s.result.frameLen, resultKind := .ok, resultValid := true, busy := false }
        seq := t.seq }) ∧
    (∀ k : AnswerKind, s.seq.cont = .send (some k) → ∃ a t : State, exec i s = .next a ∧
      linkSteps (s.result.frameLen.toNat - 1) a = exec (if k = .query then .pq else .pc) t ∧
      t = { s with
        link := { s.link with txAnswers := rest, history := s.link.history ++ sentOk (wireBytes i) }
        result := { s.result with txCount := s.result.frameLen }
        seq := t.seq })

/-- R109, R162: the block transmits no frame it does not hold in a send stage (log 8). -/
def Obligations.UnofferedRequestFrameChangesNothing : Prop :=
  ∀ (i : Instr) (s : State), (∃ f a b c, i = .qreq f a b c) ∨ (∃ f l d c, i = .creq f l d c) →
    ((∀ p, s.seq.cont ≠ .send p) ∨ s.frameBytes ≠ wireBytes i ∨ s.seq.idx ≠ 0) → exec i s = .next s

/-- R76, R287: an answer frame that arrives (log 8) is held, in order, behind what the receive stream holds, whatever
the block is doing; nothing else changes. -/
def Obligations.ArrivingAnswerIsHeldInOrder : Prop :=
  ∀ (i : Instr) (s : State),
    (∃ n p c, i = .ansQOk n p c) ∨ (∃ st c, i = .ansQErr st c) ∨ (∃ st c, i = .ansC st c) →
    exec i s = .next { s with
      link := { s.link with rxStream := s.link.rxStream ++ (wireBytes i).map RxAnswer.byte } }

/-- R103, R194: a normal query answer with the right checksum that arrives (log 8) while a query parse waits for its
head ends it OK with the payload, one link step a byte. -/
def Obligations.NormalAnswerEndsAWaitingQueryParse : Prop :=
  ∀ (n : Byte) (p : List Byte) (s : State), n.toNat = p.length + 1 →
    s.seq.cont = .head .query → s.seq.idx = 0 → s.link.rxStream = [] →
    let c := checksum ([0x70, 0x00, n] ++ p)
    ∃ a t : State, exec (.ansQOk n p c) s = .next a ∧ linkSteps (3 + n.toNat) a = .next t ∧ t.endedWith .ok ∧
      t.payloadBytes = p ∧ (∀ j, p.length ≤ j → t.bufs.payload.read j = s.bufs.payload.read j) ∧
      t = { s with
        link := { s.link with history := s.link.history ++ received (wireBytes (.ansQOk n p c)) }
        bufs := { s.bufs with rxbuf := t.bufs.rxbuf, payload := t.bufs.payload }
        result := { s.result with
          hdrRaw := 0x70, statusRaw := 0x00, b2Raw := n
          rxCount := s.result.rxCount + BitVec.ofNat 9 (n.toNat + 3), rxCk := c, calcCk := c
          plen := BitVec.ofNat 8 p.length, statusCode := .completed
          resultKind := .ok, resultValid := true, busy := false }
        seq := t.seq }

/-- R104, R105, R108: the same three bytes, arriving (log 8, log 9), end the running parse by ITS status table: a
query parse with DecodeQry for ANS_Q_ERR, a control parse with DecodeCtl (or OK) for ANS_C. -/
def Obligations.ShortAnswerEndsAWaitingParse : Prop :=
  ∀ (st : Byte) (s : State), s.seq.idx = 0 → s.link.rxStream = [] →
    (s.seq.cont = .head .query → st ≠ 0x00 →
      ∃ a t : State, exec (.ansQErr st (0x70 + st)) s = .next a ∧ linkSteps 3 a = .next t ∧ t.endedWith .status ∧
        t = { s with
          link := { s.link with history := s.link.history ++ received [0x70, st, 0x70 + st] }
          bufs := { s.bufs with rxbuf := t.bufs.rxbuf }
          result := { s.result with
            hdrRaw := 0x70, statusRaw := st, b2Raw := 0x70 + st, rxCount := s.result.rxCount + 3
            rxCk := 0x70 + st, calcCk := 0x70 + st, statusCode := decodeQry st
            resultKind := .status, resultValid := true, busy := false }
          seq := t.seq }) ∧
    (s.seq.cont = .head .control →
      ∃ a t : State, exec (.ansC st (0x70 + st)) s = .next a ∧ linkSteps 3 a = .next t ∧
        t.endedWith (if st = 0x00 then .ok else .status) ∧
        t = { s with
          link := { s.link with history := s.link.history ++ received [0x70, st, 0x70 + st] }
          bufs := { s.bufs with rxbuf := t.bufs.rxbuf }
          result := { s.result with
            hdrRaw := 0x70, statusRaw := st, b2Raw := 0x70 + st, rxCount := s.result.rxCount + 3
            rxCk := 0x70 + st, calcCk := 0x70 + st
            statusCode := if st = 0x00 then .completed else decodeCtl st
            resultKind := if st = 0x00 then .ok else .status, resultValid := true, busy := false }
          seq := t.seq })

/-! ## Acceptance, the port and the step -/

/-- R43: when the next step accepts a request, it runs the operation LOP selects on the state in which every field
the rule lists has its acceptance value and FRAME_LEN, FRAME and PAYLOAD are unchanged. That REQ_VALID falls is
the model's choice (log 5). -/
def Obligations.AcceptanceClearsTheRecord : Prop :=
  ∀ s : State, s.acceptsNext → ∃ a : State, step s = exec (latchedInstr a) a ∧
    a = { s with
      port := { s.port with reqValid := false }
      latch := a.latch
      bufs := { s.bufs with ldata := a.bufs.ldata }
      result := { busy := true, resultValid := false, resultKind := .ok, statusCode := .none, ioDir := .transmit,
                  hdrRaw := 0, statusRaw := 0, b2Raw := 0, rxCk := 0, calcCk := 0, plen := 0,
                  txCount := 0, rxCount := 0, frameLen := s.result.frameLen }
      seq := { s.seq with phase := .run, cont := .none } }

/-- R34: the latch holds the port's fields, LDATA the first min(DLEN, 259) bytes of DATA, and the rest of LDATA is
as before. -/
def Obligations.AcceptanceLatchesThePort : Prop :=
  ∀ s : State,
    let n := min (s.port.req1.toNat % 512) 259
    (accept s).latch.lop.toNat = s.port.req0.toNat % 8 ∧
    (accept s).latch.lfunc.toNat = s.port.req0.toNat / 2 ^ 8 % 256 ∧
    (accept s).latch.ld1.toNat = s.port.req0.toNat / 2 ^ 16 % 256 ∧
    (accept s).latch.ld2.toNat = s.port.req0.toNat / 2 ^ 24 % 256 ∧
    (accept s).latch.ldlen.toNat = s.port.req1.toNat % 512 ∧
    (∀ j, j < n → (accept s).bufs.ldata.read j = s.port.data.read j) ∧
    (∀ j, n ≤ j → (accept s).bufs.ldata.read j = s.bufs.ldata.read j)

/-- A step that accepts a request runs the instruction the decoder reads from the port's words and DATA. -/
def Obligations.StepRunsTheDecodedRequest : Prop :=
  ∀ (s : State) (i : Instr), s.acceptsNext →
    decode (.request s.port.req0 s.port.req1 (s.port.data.readBytes 0 259)) = .ok i →
    step s = exec i (accept s)

/-- A step that goes on with a send stage before its first byte runs the frame the decoder reads from FRAME; a step
in which the device sends runs the answer the decoder reads from its bytes (log 8). -/
def Obligations.StepRunsTheDecodedFrame : Prop :=
  (∀ (s : State) (i : Instr) (p : Option AnswerKind), s.resumesNext → s.seq.cont = .send p → s.seq.idx = 0 →
    s.result.frameLen.toNat ≤ 259 → decode (.frame .request s.frameBytes) = .ok i → step s = exec i s) ∧
  (∀ (s : State) (i : Instr), s.resetIn = false → i.wf = true →
    encode i = .frame (.answer s.link.lineKind) s.link.line →
    step s = exec i { s with link := { s.link with line := [] } })

/-- R33, R284: while an operation is in progress no step but a reset accepts a request or alters the request port or the
latch, whether the step is a link step, a wait, or an arrival of bytes of the device. -/
def Obligations.RequestWaitsWhileBusy : Prop :=
  ∀ s t : State, s.resetIn = false → s.result.busy = true → step s = .next t →
    t.port = s.port ∧ t.latch = s.latch ∧ t.bufs.ldata = s.bufs.ldata

/-- A change of the request port has no effect on an operation that has been accepted (R34, R81). That the latch has
none either, as the operation starts or in its link steps, is the model's choice: the operation was read from the latch
into the instruction `exec` is given (log 18), and its later course stands in the continuation (log 17). -/
def Obligations.RunningOperationIgnoresPortAndLatch : Prop :=
  ∀ (i : Instr) (s : State) (p : RequestPort) (l : RequestLatch) (d : Memory),
    exec i { s with port := p, latch := l, bufs := { s.bufs with ldata := d } } =
      mapNext (fun t => { t with port := p, latch := l, bufs := { t.bufs with ldata := d } }) (exec i s) ∧
    linkStep { s with port := p, latch := l, bufs := { s.bufs with ldata := d } } =
      mapNext (fun t => { t with port := p, latch := l, bufs := { t.bufs with ldata := d } }) (linkStep s)

/-- R288 (log 6): an operation that waits for an answer the transport does not give stays exactly as it is, for ever. -/
def Obligations.UnansweredOperationWaitsForever : Prop :=
  ∀ (s : State) (n : Nat), s.resumesNext →
    ((∃ p, s.seq.cont = .send p ∧ s.link.txAnswers = []) ∨
      (∃ k, s.seq.cont = .head k ∧ s.link.rxStream = []) ∨ (s.seq.cont = .body ∧ s.link.rxStream = [])) →
    Host.Core.run core n s = .next s

/-! ## Reset -/

/-- R48, R280, R282: a reset step, from any state, even with an operation in progress, gives every listed field its
reset value, makes RN0 read 0x000000E0, and touches neither the transport nor the request port. -/
def Obligations.ResetGivesTheResetValues : Prop :=
  ∀ s : State, s.resetIn = true → ∃ t : State, step s = .next t ∧
    t.result = { busy := false, resultValid := false, resultKind := .ok, statusCode := .none, ioDir := .transmit,
                 hdrRaw := 0, statusRaw := 0, b2Raw := 0, rxCk := 0, calcCk := 0, plen := 0,
                 txCount := 0, rxCount := 0, frameLen := 0 } ∧
    t.seq.phase = .idle ∧ t.link = s.link ∧ t.port = s.port ∧
    specifiedRead .rn0 t = some 0x000000E0 ∧ specifiedRead .rn1 t = some 0 ∧ specifiedRead .rn2 t = some 0 ∧
    specifiedRead .rn3 t = some 0 ∧ specifiedRead .rn4 t = some 0

/-- R162, R290: after reset a SEND transmits nothing and ends OK with TX_COUNT = 0. -/
def Obligations.SendAfterResetTransmitsNothing : Prop :=
  ∀ s : State, s.resetIn = true → s.link.line = [] → ∃ t u : State,
    step s = .next t ∧ issue .send t = .next u ∧ u.endedWith .ok ∧ u.result.txCount = 0 ∧ u.link = s.link

/-! ## The host's reads -/

/-- R35, R36, R37, R42: where each field stands in RN0 to RN4, with the numbers of the codes, every other bit 0, for a
block that is not busy. -/
def Obligations.RegisterImages : Prop :=
  ∀ s : State, s.result.busy = false → ∃ v0 v1 v2 v3 v4 : HostWord,
    specifiedRead .rn0 s = some v0 ∧ specifiedRead .rn1 s = some v1 ∧ specifiedRead .rn2 s = some v2 ∧
    specifiedRead .rn3 s = some v3 ∧ specifiedRead .rn4 s = some v4 ∧
    v0.toNat = s.result.resultValid.toNat * 2 +
      (match s.result.resultKind with
        | .ok => 0 | .framing => 1 | .checksum => 2 | .status => 3 | .io => 4 | .length => 5) * 4 +
      (match s.result.statusCode with
        | .completed => 0 | .limitOverUpper => 1 | .limitOverLower => 2 | .commandCanceled => 3
        | .parseError => 4 | .unknown => 5 | .none => 7) * 32 +
      (match s.result.ioDir with
        | .transmit => 0 | .receive => 1) * 256 ∧
    v1.toNat = s.result.hdrRaw.toNat + s.result.statusRaw.toNat * 2 ^ 8 + s.result.b2Raw.toNat * 2 ^ 16 ∧
    v2.toNat = s.result.rxCk.toNat + s.result.calcCk.toNat * 2 ^ 8 + s.result.plen.toNat * 2 ^ 16 ∧
    v3.toNat = s.result.txCount.toNat + s.result.rxCount.toNat * 2 ^ 16 ∧
    v4.toNat = s.result.frameLen.toNat

/-- R32, R49, R75: a host read of RN0 returns the true BUSY and RESULT_VALID at any time, whatever the free value,
and a read of any register changes nothing but the model's count of free values. -/
def Obligations.HostReadsShowTheFlagsAndChangeNothing : Prop :=
  ∀ s : State,
    (hostRead .rn0 s).1.getLsbD 0 = s.result.busy ∧ (hostRead .rn0 s).1.getLsbD 1 = s.result.resultValid ∧
    ∀ reg : HostReg, ∃ d : Nat, (hostRead reg s).2 = { s with draws := d }

/-- R40, R41, R49: an array byte has a specified value exactly between operations and below its valid length; it is
then the byte the buffer holds. -/
def Obligations.ArrayReadsAreSpecifiedWithinTheirLength : Prop :=
  ∀ (s : State) (v : HostWord),
    (∀ j : Fin 254, specifiedRead (.payload j) s = some v ↔
      s.result.busy = false ∧ s.payloadBytes[j.val]?.map BitVec.toNat = some v.toNat) ∧
    (∀ j : Fin 259, specifiedRead (.frame j) s = some v ↔
      s.result.busy = false ∧ s.frameBytes[j.val]?.map BitVec.toNat = some v.toNat)

/-! ## The whole machine -/

/-- The invariant holds after reset. -/
def Obligations.ResetEstablishesTheInvariant : Prop := State.reset.Inv

/-- Every step keeps the invariant: canonical memories, BUSY against RESULT_VALID and PHASE, a whole valid request
frame in FRAME, the position inside the frame or answer, and the records of the cause table. -/
def Obligations.EveryStepKeepsTheInvariant : Prop :=
  ∀ s t : State, s.Inv → step s = .next t → t.Inv

/-- R74: no step from a state of the invariant stops: no index leaves its buffer and nothing is refused. -/
def Obligations.NoStepStops : Prop :=
  ∀ s : State, s.Inv → ∃ t : State, step s = .next t

/-- R18, R288, R292: a step of a busy block takes exactly one link step. Where the transport has answered, that is one
`TxByte` of the byte FRAME[IDX] or one `RxByte`: its answer leaves its queue and joins the record of link steps
(the model's own, log 6). A run of the machine is a run of link steps as long as the operation has not ended. -/
def Obligations.BusyStepTakesOneLinkStep : Prop :=
  (∀ s : State, s.resumesNext →
    step s = linkStep s ∧
    (∀ (p : Option AnswerKind) (b : Byte) (x : TxAnswer) (rest : List TxAnswer), s.seq.cont = .send p →
      s.result.frameLen.toNat ≤ 259 → s.frameBytes[s.seq.idx.toNat]? = some b → s.link.txAnswers = x :: rest →
      ∃ t : State, step s = .next t ∧
        t.link = { s.link with txAnswers := rest, history := s.link.history ++ [LinkEvent.tx b x] }) ∧
    (∀ (x : RxAnswer) (rest : List RxAnswer),
      (∃ k, s.seq.cont = .head k ∧ s.seq.idx.toNat < 3) ∨
        (s.seq.cont = .body ∧ s.seq.idx.toNat < 3 + s.seq.nexp.toNat) → s.link.rxStream = x :: rest →
      ∃ t : State, step s = .next t ∧
        t.link = { s.link with rxStream := rest, history := s.link.history ++ [LinkEvent.rx x] })) ∧
  (∀ (n : Nat) (s : State), s.resumesNext →
    (∀ m, m < n → ∃ t : State, linkSteps m s = .next t ∧ t.result.busy = true) →
    Host.Core.run core n s = linkSteps n s)

/-- The transport's answers may come all at once or in pieces: with answers to come, an operation that first takes
those given and goes on when the rest arrive ends where it ends when all are given. -/
def Obligations.AnswersMayArriveInPieces : Prop :=
  ∀ (s : State) (tx : List TxAnswer) (rx : List RxAnswer),
    settle (grantRx rx (grantTx tx s)) =
      thenSettle (mapNext (fun t => grantRx rx (grantTx tx t)) (settle s))

/-- R281: reset between two bytes of a send, or between two bytes of a parse that the transport already holds, records
no result: what was sent stays sent, what was taken is lost, what was not read stays in the transport. -/
def Obligations.ResetAbandonsARunningOperation : Prop :=
  (∀ (s : State) (k : Nat) (rest : List TxAnswer), s.acceptsNext → s.port.req0.toNat % 8 = 3 →
    s.result.frameLen.toNat ≤ 259 → k < s.result.frameLen.toNat →
    s.link.txAnswers = List.replicate k .ok ++ rest →
    ∃ t u : State, Host.Core.run core (k + 1) s = .next t ∧ t.result.busy = true ∧ step (assertReset t) = .next u ∧
      u.result = State.reset.result ∧ u.port = t.port ∧
      u.link = { s.link with txAnswers := rest, history := s.link.history ++ sentOk (s.frameBytes.take k) }) ∧
  (∀ (s : State) (bytes : List Byte) (rest : List RxAnswer), s.acceptsNext →
    s.port.req0.toNat % 8 = 4 ∨ s.port.req0.toNat % 8 = 5 → bytes.length < 3 →
    s.link.rxStream = bytes.map RxAnswer.byte ++ rest →
    ∃ t u : State, Host.Core.run core (bytes.length + 1) s = .next t ∧ t.result.busy = true ∧
      step (assertReset t) = .next u ∧ u.result = State.reset.result ∧ u.port = t.port ∧
      u.link = { s.link with rxStream := rest, history := s.link.history ++ received bytes })
end

