-- ==== Sys2Proof/Laws/Memory.lean ====
section
/-! SUPPORT. Byte arrays: reading after writing, the canonical form, and the extent of every operation. -/

namespace Sys2Proof.Machine

@[simp] theorem Memory.read_nil (a : Nat) : Memory.read [] a = Config.memFill := rfl

@[simp] theorem Memory.wf_nil : Memory.wf [] := by simp [Memory.wf]

@[simp] theorem Memory.within_nil (size : Nat) : Memory.within size [] := by simp [Memory.within]

theorem Memory.wf_tail {c : Host.Cell} {m : Memory} (h : Memory.wf (c :: m)) : Memory.wf m :=
  ⟨(List.pairwise_cons.mp h.1).2, fun d hd => h.2 d (List.mem_cons_of_mem c hd)⟩

theorem Memory.lt_of_wf_cons {c : Host.Cell} {m : Memory} (h : Memory.wf (c :: m)) : ∀ d ∈ m, c.1 < d.1 :=
  (List.pairwise_cons.mp h.1).1

/-- Below every listed index nothing is listed. -/
theorem Memory.read_of_forall_gt {m : Memory} {a : Nat} (h : ∀ c ∈ m, a < c.1) : m.read a = Config.memFill := by
  induction m with
  | nil => rfl
  | cons c m ih =>
    obtain ⟨b, w⟩ := c
    have hb : a < b := h (b, w) (by simp)
    rw [Memory.read, if_neg (by omega)]
    exact ih fun d hd => h d (by simp [hd])

/-- A cell of an array after a write is the written one or was there. -/
theorem Memory.mem_write {m : Memory} {a : Nat} {v : Byte} {c : Host.Cell} (h : c ∈ m.write a v) :
    (c = (a, v) ∧ v ≠ Config.memFill) ∨ c ∈ m := by
  induction m with
  | nil =>
    rw [Memory.write] at h
    split at h <;> simp_all
  | cons d m ih =>
    obtain ⟨b, w⟩ := d
    rw [Memory.write] at h
    split at h
    · split at h
      · exact (ih h).imp id (List.mem_cons_of_mem _)
      · rcases List.mem_cons.mp h with h | h
        · exact .inl ⟨h, ‹_›⟩
        · exact .inr (List.mem_cons_of_mem _ h)
    · split at h
      · rcases List.mem_cons.mp h with h | h
        · exact .inl ⟨h, ‹a < b ∧ _›.2⟩
        · exact .inr h
      · rcases List.mem_cons.mp h with h | h
        · exact .inr (by simp [h])
        · exact (ih h).imp id (List.mem_cons_of_mem _)

/-- A write keeps the canonical form. -/
theorem Memory.write_wf {m : Memory} (h : m.wf) (a : Nat) (v : Byte) : (m.write a v).wf := by
  induction m with
  | nil =>
    rw [Memory.write]
    split
    · exact Memory.wf_nil
    · refine ⟨List.pairwise_singleton _ _, fun c hc => ?_⟩
      rw [List.mem_singleton.mp hc]
      assumption
  | cons d m ih =>
    obtain ⟨b, w⟩ := d
    have hlt := Memory.lt_of_wf_cons h
    have hw := h.2 (b, w) (by simp)
    have ht := Memory.wf_tail h
    have hi := ih ht
    rw [Memory.write]
    split
    · split
      · exact hi
      · subst b
        refine ⟨List.pairwise_cons.mpr ⟨hlt, ht.1⟩, fun c hc => ?_⟩
        rcases List.mem_cons.mp hc with rfl | hc
        · assumption
        · exact ht.2 c hc
    · split
      · obtain ⟨hab, hv⟩ := ‹a < b ∧ _›
        refine ⟨List.pairwise_cons.mpr ⟨fun c hc => ?_, h.1⟩, fun c hc => ?_⟩
        · rcases List.mem_cons.mp hc with rfl | hc
          · exact hab
          · exact lt_trans hab (hlt c hc)
        · rcases List.mem_cons.mp hc with rfl | hc
          · exact hv
          · exact h.2 c hc
      · refine ⟨List.pairwise_cons.mpr ⟨fun c hc => ?_, hi.1⟩, fun c hc => ?_⟩
        · rcases Memory.mem_write hc with ⟨rfl, hv⟩ | hc
          · have hn := ‹¬ (a < b ∧ _)›
            show b < a
            have : ¬ a < b := fun hab => hn ⟨hab, hv⟩
            omega
          · exact hlt c hc
        · rcases List.mem_cons.mp hc with rfl | hc
          · exact hw
          · exact hi.2 c hc

/-- A write inside the array keeps every listed index inside it. -/
theorem Memory.write_within {m : Memory} {size a : Nat} (h : m.within size) (ha : a < size) (v : Byte) :
    (m.write a v).within size := by
  intro c hc
  rcases Memory.mem_write hc with ⟨rfl, _⟩ | hc
  · exact ha
  · exact h c hc

/-- Reading after a write, in any array: the byte written at its index, the old one elsewhere. -/
theorem Memory.read_write (m : Memory) (a b : Nat) (v : Byte) :
    (m.write a v).read b = if b = a then v else m.read b := by
  induction m with
  | nil =>
    rw [Memory.write]
    split <;> simp_all [Memory.read, eq_comm]
  | cons d m ih =>
    obtain ⟨e, w⟩ := d
    rw [Memory.write]
    by_cases hae : a = e
    · subst hae
      rw [if_pos rfl]
      split
      · rw [ih, Memory.read]
        by_cases hba : b = a
        · rw [if_pos hba, if_pos hba]
        · rw [if_neg hba, if_neg hba, if_neg (Ne.symm hba)]
      · rw [Memory.read, Memory.read]
        by_cases hba : b = a
        · rw [if_pos hba, if_pos hba.symm]
        · rw [if_neg hba, if_neg (Ne.symm hba), if_neg (Ne.symm hba)]
    · rw [if_neg hae]
      split
      · rw [Memory.read]
        by_cases hba : b = a
        · rw [if_pos hba, if_pos hba.symm]
        · rw [if_neg hba, if_neg (Ne.symm hba)]
      · rw [Memory.read, ih, Memory.read]
        by_cases hbe : e = b
        · rw [if_pos hbe, if_pos hbe, if_neg (fun hba => hae (hba.symm.trans hbe.symm))]
        · rw [if_neg hbe, if_neg hbe]

@[simp] theorem Memory.readBytes_zero (m : Memory) (i : Nat) : m.readBytes i 0 = [] := rfl

theorem Memory.readBytes_succ (m : Memory) (i n : Nat) :
    m.readBytes i (n + 1) = m.read i :: m.readBytes (i + 1) n := rfl

@[simp] theorem Memory.length_readBytes (m : Memory) (i n : Nat) : (m.readBytes i n).length = n := by
  induction n generalizing i with
  | zero => rfl
  | succ n ih => simp [Memory.readBytes_succ, ih]

theorem Memory.getElem?_readBytes (m : Memory) (i n k : Nat) :
    (m.readBytes i n)[k]? = if k < n then some (m.read (i + k)) else none := by
  induction n generalizing i k with
  | zero => simp
  | succ n ih =>
    cases k with
    | zero => simp [Memory.readBytes_succ]
    | succ k =>
      rw [Memory.readBytes_succ, List.getElem?_cons_succ, ih, show i + 1 + k = i + (k + 1) by omega]
      simp

@[simp] theorem Memory.writeBytes_nil (m : Memory) (i : Nat) : m.writeBytes i [] = m := rfl

theorem Memory.writeBytes_cons (m : Memory) (i : Nat) (v : Byte) (vs : List Byte) :
    m.writeBytes i (v :: vs) = (m.write i v).writeBytes (i + 1) vs := rfl

/-- Storing bytes keeps the canonical form. -/
theorem Memory.writeBytes_wf {m : Memory} (h : m.wf) (i : Nat) (vs : List Byte) : (m.writeBytes i vs).wf := by
  induction vs generalizing m i with
  | nil => exact h
  | cons v vs ih => exact ih (Memory.write_wf h i v) (i + 1)

/-- Storing bytes inside the array keeps every listed index inside it. -/
theorem Memory.writeBytes_within {m : Memory} {size i : Nat} {vs : List Byte} (h : m.within size)
    (hi : i + vs.length ≤ size) : (m.writeBytes i vs).within size := by
  induction vs generalizing m i with
  | nil => exact h
  | cons v vs ih =>
    simp only [List.length_cons] at hi
    exact ih (Memory.write_within h (by omega) v) (by omega)

/-- Reading after storing bytes: the byte stored there, or the old one outside them. -/
theorem Memory.read_writeBytes (m : Memory) (i : Nat) (vs : List Byte) (a : Nat) :
    (m.writeBytes i vs).read a = if i ≤ a then (vs[a - i]?).getD (m.read a) else m.read a := by
  induction vs generalizing m i with
  | nil => simp
  | cons v vs ih =>
    rw [Memory.writeBytes_cons, ih, Memory.read_write]
    by_cases h1 : i + 1 ≤ a
    · have hai : a ≠ i := by omega
      have hle : i ≤ a := by omega
      have hsub : a - i = a - (i + 1) + 1 := by omega
      simp only [if_pos h1, if_pos hle, if_neg hai, hsub, List.getElem?_cons_succ]
    · rw [if_neg h1]
      by_cases h2 : a = i
      · simp [h2]
      · rw [if_neg h2, if_neg (by omega)]

/-- Bytes stored are read back. -/
theorem Memory.readBytes_writeBytes_same (m : Memory) (i : Nat) (vs : List Byte) :
    (m.writeBytes i vs).readBytes i vs.length = vs := by
  apply List.ext_getElem?
  intro k
  rw [Memory.getElem?_readBytes, Memory.read_writeBytes]
  by_cases hk : k < vs.length
  · simp [hk]
  · simp [hk]

/-- Two arrays of canonical form with the same bytes are equal. -/
theorem Memory.ext_of_read {m n : Memory} (hm : m.wf) (hn : n.wf) (h : ∀ a, m.read a = n.read a) : m = n := by
  induction m generalizing n with
  | nil =>
    cases n with
    | nil => rfl
    | cons d n =>
      have := h d.1
      rw [Memory.read_nil, Memory.read, if_pos rfl] at this
      exact absurd this.symm (hn.2 d (by simp))
  | cons c m ih =>
    cases n with
    | nil =>
      have := h c.1
      rw [Memory.read_nil, Memory.read, if_pos rfl] at this
      exact absurd this (hm.2 c (by simp))
    | cons d n =>
      obtain ⟨a, v⟩ := c
      obtain ⟨b, w⟩ := d
      have hmlt := Memory.lt_of_wf_cons hm
      have hnlt := Memory.lt_of_wf_cons hn
      have hab : a = b := by
        rcases lt_trichotomy a b with hlt | rfl | hlt
        · have := h a
          rw [Memory.read, if_pos rfl, Memory.read_of_forall_gt (m := (b, w) :: n)] at this
          · exact absurd this (hm.2 (a, v) (by simp))
          · intro c hc
            rcases List.mem_cons.mp hc with rfl | hc
            · exact hlt
            · exact lt_trans hlt (hnlt c hc)
        · rfl
        · have := h b
          rw [Memory.read_of_forall_gt (m := (a, v) :: m), Memory.read, if_pos rfl] at this
          · exact absurd this.symm (hn.2 (b, w) (by simp))
          · intro c hc
            rcases List.mem_cons.mp hc with rfl | hc
            · exact hlt
            · exact lt_trans hlt (hmlt c hc)
      subst hab
      have hvw : v = w := by
        have := h a
        rwa [Memory.read, if_pos rfl, Memory.read, if_pos rfl] at this
      subst hvw
      have htail : m = n := ih (Memory.wf_tail hm) (Memory.wf_tail hn) fun x => by
        by_cases hx : x = a
        · subst hx
          rw [Memory.read_of_forall_gt hmlt, Memory.read_of_forall_gt hnlt]
        · have := h x
          rwa [Memory.read, if_neg (by omega), Memory.read, if_neg (by omega)] at this
      rw [htail]

/-- The memories after reset are in canonical form. -/
theorem reset_memoriesOk : State.reset.memoriesOk := by
  decide

end Sys2Proof.Machine
end

