-- ==== Sys2Proof/Laws/State.lean ====
section
/-! SUPPORT. One lemma per group of fields and named update: what it writes and what it leaves alone. -/

namespace Sys2Proof.Machine

@[simp] theorem runAcc_port (bytes : List Byte) (s : State) : (runAcc bytes s).port = s.port := rfl
@[simp] theorem runAcc_latch (bytes : List Byte) (s : State) : (runAcc bytes s).latch = s.latch := rfl
@[simp] theorem runAcc_result (bytes : List Byte) (s : State) : (runAcc bytes s).result = s.result := rfl
@[simp] theorem runAcc_bufs (bytes : List Byte) (s : State) : (runAcc bytes s).bufs = s.bufs := rfl
@[simp] theorem runAcc_seq (bytes : List Byte) (s : State) :
    (runAcc bytes s).seq = { s.seq with acc := accumulate bytes } := rfl
@[simp] theorem runAcc_link (bytes : List Byte) (s : State) : (runAcc bytes s).link = s.link := rfl
@[simp] theorem runAcc_resetIn (bytes : List Byte) (s : State) : (runAcc bytes s).resetIn = s.resetIn := rfl
@[simp] theorem runAcc_draws (bytes : List Byte) (s : State) : (runAcc bytes s).draws = s.draws := rfl

@[simp] theorem setCalcCk_port (v : Byte) (s : State) : (setCalcCk v s).port = s.port := rfl
@[simp] theorem setCalcCk_latch (v : Byte) (s : State) : (setCalcCk v s).latch = s.latch := rfl
@[simp] theorem setCalcCk_result (v : Byte) (s : State) : (setCalcCk v s).result = { s.result with calcCk := v } := rfl
@[simp] theorem setCalcCk_bufs (v : Byte) (s : State) : (setCalcCk v s).bufs = s.bufs := rfl
@[simp] theorem setCalcCk_seq (v : Byte) (s : State) : (setCalcCk v s).seq = s.seq := rfl
@[simp] theorem setCalcCk_link (v : Byte) (s : State) : (setCalcCk v s).link = s.link := rfl
@[simp] theorem setCalcCk_resetIn (v : Byte) (s : State) : (setCalcCk v s).resetIn = s.resetIn := rfl
@[simp] theorem setCalcCk_draws (v : Byte) (s : State) : (setCalcCk v s).draws = s.draws := rfl

@[simp] theorem setFrameLen_port (n : Count) (s : State) : (setFrameLen n s).port = s.port := rfl
@[simp] theorem setFrameLen_latch (n : Count) (s : State) : (setFrameLen n s).latch = s.latch := rfl
@[simp] theorem setFrameLen_result (n : Count) (s : State) :
    (setFrameLen n s).result = { s.result with frameLen := n } := rfl
@[simp] theorem setFrameLen_bufs (n : Count) (s : State) : (setFrameLen n s).bufs = s.bufs := rfl
@[simp] theorem setFrameLen_seq (n : Count) (s : State) : (setFrameLen n s).seq = s.seq := rfl
@[simp] theorem setFrameLen_link (n : Count) (s : State) : (setFrameLen n s).link = s.link := rfl
@[simp] theorem setFrameLen_resetIn (n : Count) (s : State) : (setFrameLen n s).resetIn = s.resetIn := rfl
@[simp] theorem setFrameLen_draws (n : Count) (s : State) : (setFrameLen n s).draws = s.draws := rfl

@[simp] theorem finish_port (k : ResultKind) (s : State) : (finish k s).port = s.port := rfl
@[simp] theorem finish_latch (k : ResultKind) (s : State) : (finish k s).latch = s.latch := rfl
@[simp] theorem finish_result (k : ResultKind) (s : State) :
    (finish k s).result = { s.result with resultKind := k, resultValid := true, busy := false } := rfl
@[simp] theorem finish_bufs (k : ResultKind) (s : State) : (finish k s).bufs = s.bufs := rfl
@[simp] theorem finish_seq (k : ResultKind) (s : State) :
    (finish k s).seq = { s.seq with phase := .idle, cont := .none } := rfl
@[simp] theorem finish_link (k : ResultKind) (s : State) : (finish k s).link = s.link := rfl
@[simp] theorem finish_resetIn (k : ResultKind) (s : State) : (finish k s).resetIn = s.resetIn := rfl
@[simp] theorem finish_draws (k : ResultKind) (s : State) : (finish k s).draws = s.draws := rfl

@[simp] theorem raiseIo_port (d : IoDir) (s : State) : (raiseIo d s).port = s.port := rfl
@[simp] theorem raiseIo_latch (d : IoDir) (s : State) : (raiseIo d s).latch = s.latch := rfl
@[simp] theorem raiseIo_result (d : IoDir) (s : State) : (raiseIo d s).result = 
    { s.result with ioDir := d, resultKind := .io, resultValid := true, busy := false } := rfl
@[simp] theorem raiseIo_bufs (d : IoDir) (s : State) : (raiseIo d s).bufs = s.bufs := rfl
@[simp] theorem raiseIo_seq (d : IoDir) (s : State) :
    (raiseIo d s).seq = { s.seq with phase := .idle, cont := .none } := rfl
@[simp] theorem raiseIo_link (d : IoDir) (s : State) : (raiseIo d s).link = s.link := rfl
@[simp] theorem raiseIo_resetIn (d : IoDir) (s : State) : (raiseIo d s).resetIn = s.resetIn := rfl
@[simp] theorem raiseIo_draws (d : IoDir) (s : State) : (raiseIo d s).draws = s.draws := rfl

@[simp] theorem accept_port (s : State) : (accept s).port = { s.port with reqValid := false } := rfl
@[simp] theorem accept_result (s : State) : (accept s).result = s.result.atAcceptance := rfl
@[simp] theorem accept_seq (s : State) : (accept s).seq = { s.seq with phase := .run, cont := .none } := rfl
@[simp] theorem accept_link (s : State) : (accept s).link = s.link := rfl
@[simp] theorem accept_resetIn (s : State) : (accept s).resetIn = s.resetIn := rfl
@[simp] theorem accept_draws (s : State) : (accept s).draws = s.draws := rfl

@[simp] theorem resetBlock_port (s : State) : (resetBlock s).port = s.port := rfl
@[simp] theorem resetBlock_latch (s : State) : (resetBlock s).latch = State.reset.latch := rfl
@[simp] theorem resetBlock_result (s : State) : (resetBlock s).result = State.reset.result := rfl
@[simp] theorem resetBlock_bufs (s : State) : (resetBlock s).bufs = State.reset.bufs := rfl
@[simp] theorem resetBlock_seq (s : State) : (resetBlock s).seq = State.reset.seq := rfl
@[simp] theorem resetBlock_link (s : State) : (resetBlock s).link = s.link := rfl
@[simp] theorem resetBlock_resetIn (s : State) : (resetBlock s).resetIn = false := rfl
@[simp] theorem resetBlock_draws (s : State) : (resetBlock s).draws = s.draws := rfl

@[simp] theorem startHead_port (k : AnswerKind) (s : State) : (startHead k s).port = s.port := rfl
@[simp] theorem startHead_latch (k : AnswerKind) (s : State) : (startHead k s).latch = s.latch := rfl
@[simp] theorem startHead_result (k : AnswerKind) (s : State) : (startHead k s).result = s.result := rfl
@[simp] theorem startHead_bufs (k : AnswerKind) (s : State) : (startHead k s).bufs = s.bufs := rfl
@[simp] theorem startHead_seq (k : AnswerKind) (s : State) :
    (startHead k s).seq = { s.seq with cont := .head k, idx := 0 } := rfl
@[simp] theorem startHead_link (k : AnswerKind) (s : State) : (startHead k s).link = s.link := rfl
@[simp] theorem startHead_resetIn (k : AnswerKind) (s : State) : (startHead k s).resetIn = s.resetIn := rfl
@[simp] theorem startHead_draws (k : AnswerKind) (s : State) : (startHead k s).draws = s.draws := rfl

@[simp] theorem joinStream_port (bytes : List Byte) (s : State) : (joinStream bytes s).port = s.port := rfl
@[simp] theorem joinStream_latch (bytes : List Byte) (s : State) : (joinStream bytes s).latch = s.latch := rfl
@[simp] theorem joinStream_result (bytes : List Byte) (s : State) : (joinStream bytes s).result = s.result := rfl
@[simp] theorem joinStream_bufs (bytes : List Byte) (s : State) : (joinStream bytes s).bufs = s.bufs := rfl
@[simp] theorem joinStream_seq (bytes : List Byte) (s : State) : (joinStream bytes s).seq = s.seq := rfl
@[simp] theorem joinStream_link (bytes : List Byte) (s : State) : (joinStream bytes s).link = 
    { s.link with rxStream := s.link.rxStream ++ bytes.map RxAnswer.byte } := rfl
@[simp] theorem joinStream_resetIn (bytes : List Byte) (s : State) : (joinStream bytes s).resetIn = s.resetIn := rfl
@[simp] theorem joinStream_draws (bytes : List Byte) (s : State) : (joinStream bytes s).draws = s.draws := rfl

@[simp] theorem grantTx_port (a : List TxAnswer) (s : State) : (grantTx a s).port = s.port := rfl
@[simp] theorem grantTx_latch (a : List TxAnswer) (s : State) : (grantTx a s).latch = s.latch := rfl
@[simp] theorem grantTx_result (a : List TxAnswer) (s : State) : (grantTx a s).result = s.result := rfl
@[simp] theorem grantTx_bufs (a : List TxAnswer) (s : State) : (grantTx a s).bufs = s.bufs := rfl
@[simp] theorem grantTx_seq (a : List TxAnswer) (s : State) : (grantTx a s).seq = s.seq := rfl
@[simp] theorem grantTx_link (a : List TxAnswer) (s : State) :
    (grantTx a s).link = { s.link with txAnswers := s.link.txAnswers ++ a } := rfl
@[simp] theorem grantTx_resetIn (a : List TxAnswer) (s : State) : (grantTx a s).resetIn = s.resetIn := rfl
@[simp] theorem grantTx_draws (a : List TxAnswer) (s : State) : (grantTx a s).draws = s.draws := rfl

@[simp] theorem grantRx_port (a : List RxAnswer) (s : State) : (grantRx a s).port = s.port := rfl
@[simp] theorem grantRx_latch (a : List RxAnswer) (s : State) : (grantRx a s).latch = s.latch := rfl
@[simp] theorem grantRx_result (a : List RxAnswer) (s : State) : (grantRx a s).result = s.result := rfl
@[simp] theorem grantRx_bufs (a : List RxAnswer) (s : State) : (grantRx a s).bufs = s.bufs := rfl
@[simp] theorem grantRx_seq (a : List RxAnswer) (s : State) : (grantRx a s).seq = s.seq := rfl
@[simp] theorem grantRx_link (a : List RxAnswer) (s : State) :
    (grantRx a s).link = { s.link with rxStream := s.link.rxStream ++ a } := rfl
@[simp] theorem grantRx_resetIn (a : List RxAnswer) (s : State) : (grantRx a s).resetIn = s.resetIn := rfl
@[simp] theorem grantRx_draws (a : List RxAnswer) (s : State) : (grantRx a s).draws = s.draws := rfl

@[simp] theorem assertReset_port (s : State) : (assertReset s).port = s.port := rfl
@[simp] theorem assertReset_latch (s : State) : (assertReset s).latch = s.latch := rfl
@[simp] theorem assertReset_result (s : State) : (assertReset s).result = s.result := rfl
@[simp] theorem assertReset_bufs (s : State) : (assertReset s).bufs = s.bufs := rfl
@[simp] theorem assertReset_seq (s : State) : (assertReset s).seq = s.seq := rfl
@[simp] theorem assertReset_link (s : State) : (assertReset s).link = s.link := rfl
@[simp] theorem assertReset_resetIn (s : State) : (assertReset s).resetIn = true := rfl
@[simp] theorem assertReset_draws (s : State) : (assertReset s).draws = s.draws := rfl

@[simp] theorem deviceSends_port (k : AnswerKind) (bytes : List Byte) (s : State) :
    (deviceSends k bytes s).port = s.port := rfl
@[simp] theorem deviceSends_latch (k : AnswerKind) (bytes : List Byte) (s : State) :
    (deviceSends k bytes s).latch = s.latch := rfl
@[simp] theorem deviceSends_result (k : AnswerKind) (bytes : List Byte) (s : State) :
    (deviceSends k bytes s).result = s.result := rfl
@[simp] theorem deviceSends_bufs (k : AnswerKind) (bytes : List Byte) (s : State) :
    (deviceSends k bytes s).bufs = s.bufs := rfl
@[simp] theorem deviceSends_seq (k : AnswerKind) (bytes : List Byte) (s : State) :
    (deviceSends k bytes s).seq = s.seq := rfl
@[simp] theorem deviceSends_link (k : AnswerKind) (bytes : List Byte) (s : State) :
    (deviceSends k bytes s).link = { s.link with line := s.link.line ++ bytes, lineKind := k } := rfl
@[simp] theorem deviceSends_resetIn (k : AnswerKind) (bytes : List Byte) (s : State) :
    (deviceSends k bytes s).resetIn = s.resetIn := rfl
@[simp] theorem deviceSends_draws (k : AnswerKind) (bytes : List Byte) (s : State) :
    (deviceSends k bytes s).draws = s.draws := rfl

@[simp] theorem hostPresent_port (r0 r1 : HostWord) (data : List Byte) (s : State) : (hostPresent r0 r1 data s).port = 
    { reqValid := true, req0 := r0, req1 := r1, data := s.port.data.writeBytes 0 (data.take Config.dataMax) } := rfl
@[simp] theorem hostPresent_latch (r0 r1 : HostWord) (data : List Byte) (s : State) :
    (hostPresent r0 r1 data s).latch = s.latch := rfl
@[simp] theorem hostPresent_result (r0 r1 : HostWord) (data : List Byte) (s : State) :
    (hostPresent r0 r1 data s).result = s.result := rfl
@[simp] theorem hostPresent_bufs (r0 r1 : HostWord) (data : List Byte) (s : State) :
    (hostPresent r0 r1 data s).bufs = s.bufs := rfl
@[simp] theorem hostPresent_seq (r0 r1 : HostWord) (data : List Byte) (s : State) :
    (hostPresent r0 r1 data s).seq = s.seq := rfl
@[simp] theorem hostPresent_link (r0 r1 : HostWord) (data : List Byte) (s : State) :
    (hostPresent r0 r1 data s).link = s.link := rfl
@[simp] theorem hostPresent_resetIn (r0 r1 : HostWord) (data : List Byte) (s : State) :
    (hostPresent r0 r1 data s).resetIn = s.resetIn := rfl
@[simp] theorem hostPresent_draws (r0 r1 : HostWord) (data : List Byte) (s : State) :
    (hostPresent r0 r1 data s).draws = s.draws := rfl

@[simp] theorem setBuf_port (s : State) (b : Buffer) (m : Memory) : (s.setBuf b m).port = s.port := by
  cases b <;> rfl
@[simp] theorem setBuf_latch (s : State) (b : Buffer) (m : Memory) : (s.setBuf b m).latch = s.latch := by
  cases b <;> rfl
@[simp] theorem setBuf_result (s : State) (b : Buffer) (m : Memory) : (s.setBuf b m).result = s.result := by
  cases b <;> rfl
@[simp] theorem setBuf_seq (s : State) (b : Buffer) (m : Memory) : (s.setBuf b m).seq = s.seq := by
  cases b <;> rfl
@[simp] theorem setBuf_link (s : State) (b : Buffer) (m : Memory) : (s.setBuf b m).link = s.link := by
  cases b <;> rfl
@[simp] theorem setBuf_resetIn (s : State) (b : Buffer) (m : Memory) : (s.setBuf b m).resetIn = s.resetIn := by
  cases b <;> rfl
@[simp] theorem setBuf_draws (s : State) (b : Buffer) (m : Memory) : (s.setBuf b m).draws = s.draws := by
  cases b <;> rfl
@[simp] theorem setBuf_buf_same (s : State) (b : Buffer) (m : Memory) : (s.setBuf b m).buf b = m := by
  cases b <;> rfl
theorem setBuf_buf_other (s : State) {b c : Buffer} (m : Memory) (h : c ≠ b) :
    (s.setBuf b m).buf c = s.buf c := by
  cases b <;> cases c <;> first | rfl | exact absurd rfl h
@[simp] theorem setBuf_buf_self (s : State) (b : Buffer) : s.setBuf b (s.buf b) = s := by
  cases b <;> rfl

@[simp] theorem accept_frame (s : State) : (accept s).bufs.frame = s.bufs.frame := rfl
@[simp] theorem accept_rxbuf (s : State) : (accept s).bufs.rxbuf = s.bufs.rxbuf := rfl
@[simp] theorem accept_payload (s : State) : (accept s).bufs.payload = s.bufs.payload := rfl
@[simp] theorem accept_ldata (s : State) : (accept s).bufs.ldata =
    s.bufs.ldata.writeBytes 0 (s.port.data.readBytes 0 (latchedLength (reqDlen s.port.req1))) := rfl
@[simp] theorem accept_latch (s : State) : (accept s).latch =
    { lop := reqOp s.port.req0, lfunc := reqFunc s.port.req0, ld1 := reqD1 s.port.req0,
      ld2 := reqD2 s.port.req0, ldlen := reqDlen s.port.req1 } := rfl

end Sys2Proof.Machine
end

