-- ==== Sys2Proof/Laws/Ops.lean ====
section
/-! SUPPORT. One lemma per shared operation that says what it can do, for proofs to cite instead of unfolding it:
the buffer primitives, the stages, the link steps, and the step. -/

namespace Sys2Proof.Machine

/-! ## MemRead and MemWrite -/

theorem withRead_of_le {b : Buffer} {i n : Nat} {s : State} {use : List Byte → Out}
    (h : i + n ≤ bufferSize b) : withRead b i n s use = use ((s.buf b).readBytes i n) := if_pos h

theorem withWrite_of_le {b : Buffer} {i : Nat} {v : List Byte} {s : State} {next : State → Out}
    (h : i + v.length ≤ bufferSize b) :
    withWrite b i v s next = next (s.setBuf b ((s.buf b).writeBytes i v)) := if_pos h

/-- MemRead answers a next state only inside the buffer, and then what is done with the bytes does. -/
theorem withRead_next {b : Buffer} {i n : Nat} {s t : State} {use : List Byte → Out}
    (h : withRead b i n s use = .next t) :
    i + n ≤ bufferSize b ∧ use ((s.buf b).readBytes i n) = .next t := by
  unfold withRead at h
  split at h
  · exact ⟨‹_›, h⟩
  · cases h

/-- MemWrite answers a next state only inside the buffer, and then what follows the store does. -/
theorem withWrite_next {b : Buffer} {i : Nat} {v : List Byte} {s t : State} {next : State → Out}
    (h : withWrite b i v s next = .next t) :
    i + v.length ≤ bufferSize b ∧ next (s.setBuf b ((s.buf b).writeBytes i v)) = .next t := by
  unfold withWrite at h
  split at h
  · exact ⟨‹_›, h⟩
  · cases h

/-! ## The stages -/

/-- The checksum comparison passes on, or ends CHECKSUM; either way both checksum fields are written. -/
theorem compareChecksum_next {covered : List Byte} {c : Byte} {s t : State} {pass : State → Out}
    (h : compareChecksum covered c s pass = .next t) :
    (checksum covered = c ∧
      pass { runAcc covered s with result := { s.result with calcCk := checksum covered, rxCk := c } } = .next t) ∨
    (checksum covered ≠ c ∧ t = finish .checksum
      { runAcc covered s with result := { s.result with calcCk := checksum covered, rxCk := c } }) := by
  unfold compareChecksum at h
  split at h
  · exact .inl ⟨‹_›, h⟩
  · exact .inr ⟨‹_›, (Host.Outcome.next.inj h).symm⟩

/-- A complete short answer ends OK on Completed and STATUS otherwise. -/
theorem concludeStatus_next {k : AnswerKind} {st : Byte} {s t : State} (h : concludeStatus k st s = .next t) :
    (st = Config.stCompleted ∧ t = finish .ok { s with result := { s.result with statusCode := .completed } }) ∨
    (st ≠ Config.stCompleted ∧
      t = finish .status { s with result := { s.result with statusCode := decodeStatus k st } }) := by
  unfold concludeStatus at h
  split at h
  · exact .inl ⟨‹_›, (Host.Outcome.next.inj h).symm⟩
  · exact .inr ⟨‹_›, (Host.Outcome.next.inj h).symm⟩

/-- A frame that fits in FRAME is stored there, and the build goes on. -/
theorem buildStage_of_le {fr : List Byte} {s : State} {next : State → Out} (h : fr.length ≤ Config.frameMax) :
    buildStage fr s next =
      next (setFrameLen (BitVec.ofNat 9 fr.length)
        (runAcc fr.dropLast (s.setBuf .frame (s.bufs.frame.writeBytes 0 fr)))) := by
  unfold buildStage
  rw [withWrite_of_le (b := .frame) (by simpa [bufferSize] using h)]
  rfl

/-- An empty frame is sent at once, without a link step (41_framer R162). -/
theorem sendStage_of_empty {p : Option AnswerKind} {s : State} (h : s.result.frameLen = 0) :
    sendStage p s = .next (afterSend p { s with result := { s.result with txCount := 0 } }) := by
  unfold sendStage
  rw [withRead_of_le (by simp [h])]
  simp [h]

/-- Any other frame is sent from its byte 0 on, one link step a byte. -/
theorem sendStage_of_nonempty {p : Option AnswerKind} {s : State} (h : s.result.frameLen ≠ 0)
    (hle : s.result.frameLen.toNat ≤ Config.frameMax) :
    sendStage p s = .next { s with seq := { s.seq with cont := .send p, idx := 0 } } := by
  unfold sendStage
  rw [withRead_of_le (by simpa [bufferSize] using hle), if_neg]
  intro hnil
  have := congrArg List.length hnil
  rw [Memory.length_readBytes] at this
  exact h (BitVec.eq_of_toNat_eq (by simpa using this))

@[simp] theorem parseStage_eq (k : AnswerKind) (s : State) : parseStage k s = .next (startHead k s) := rfl

@[simp] theorem length_withChecksum (s : List Byte) : (withChecksum s).length = s.length + 1 := by
  simp [withChecksum]

@[simp] theorem length_queryFrame (f d1 d2 : Byte) : (queryFrame f d1 d2).length = 6 := by
  simp [queryFrame]

@[simp] theorem length_controlFrame (f : Byte) (d : List Byte) : (controlFrame f d).length = d.length + 5 := by
  simp [controlFrame]

@[simp] theorem length_takeBytes (n : Nat) (l : List Byte) : (takeBytes n l).length = n := by
  induction n generalizing l with
  | zero => cases l <;> rfl
  | succ n ih => cases l <;> simp [takeBytes, ih]

theorem takeBytes_of_le {n : Nat} {l : List Byte} (h : n ≤ l.length) : takeBytes n l = l.take n := by
  induction n generalizing l with
  | zero => cases l <;> rfl
  | succ n ih =>
    cases l with
    | nil => simp at h
    | cons v l => simp only [List.length_cons] at h; simp [takeBytes, ih (l := l) (by omega)]

@[simp] theorem length_operandData (dlen : Count) (data : List Byte) :
    (operandData dlen data).length = dlen.toNat := length_takeBytes _ _

theorem latchedLength_le (dlen : Count) : latchedLength dlen ≤ Config.dataMax := Nat.min_le_right _ _

/-! ## Host words -/

/-- A field of a host word, bit by bit. -/
theorem getLsbD_fieldAt {w : Nat} (lo : Nat) (v : BitVec w) (i : Nat) :
    (fieldAt lo v).getLsbD i = (decide (i < 32) && !decide (i < lo) && v.getLsbD (i - lo)) := by
  simp only [fieldAt, BitVec.getLsbD_shiftLeft, BitVec.getLsbD_setWidth]
  by_cases h : i < 32
  · simp [h, show i - lo < 32 by omega]
  · simp [h]

/-! ## Link steps -/

theorem linkStep_of_none {s : State} (h : s.seq.cont = .none) : linkStep s = .next s := by
  simp [linkStep, h]

theorem linkStep_send {s : State} {p : Option AnswerKind} {a : TxAnswer} {rest : List TxAnswer}
    (h : s.seq.cont = .send p) (hq : s.link.txAnswers = a :: rest) : linkStep s = txStep p a rest s := by
  simp [linkStep, h, hq]

theorem linkStep_head {s : State} {k : AnswerKind} {a : RxAnswer} {rest : List RxAnswer}
    (h : s.seq.cont = .head k) (hq : s.link.rxStream = a :: rest) :
    linkStep s = rxStep 3 a rest s (afterHead k) := by
  simp [linkStep, h, hq]

theorem linkStep_body {s : State} {a : RxAnswer} {rest : List RxAnswer}
    (h : s.seq.cont = .body) (hq : s.link.rxStream = a :: rest) :
    linkStep s = rxStep (3 + s.seq.nexp.toNat) a rest s afterBody := by
  simp [linkStep, h, hq]

/-- What a link step can be: nothing, one answered `TxByte`, or one answered `RxByte` of the head or of the body. -/
theorem linkStep_next {s t : State} (h : linkStep s = .next t) :
    t = s ∨
    (∃ p a rest, s.seq.cont = .send p ∧ s.link.txAnswers = a :: rest ∧ txStep p a rest s = .next t) ∨
    (∃ k a rest, s.seq.cont = .head k ∧ s.link.rxStream = a :: rest ∧
      rxStep 3 a rest s (afterHead k) = .next t) ∨
    (∃ a rest, s.seq.cont = .body ∧ s.link.rxStream = a :: rest ∧
      rxStep (3 + s.seq.nexp.toNat) a rest s afterBody = .next t) := by
  unfold linkStep at h
  split at h
  · exact .inl (Host.Outcome.next.inj h).symm
  · split at h
    · exact .inl (Host.Outcome.next.inj h).symm
    · exact .inr (.inl ⟨_, _, _, ‹_›, ‹_›, h⟩)
  · split at h
    · exact .inl (Host.Outcome.next.inj h).symm
    · exact .inr (.inr (.inl ⟨_, _, _, ‹_›, ‹_›, h⟩))
  · split at h
    · exact .inl (Host.Outcome.next.inj h).symm
    · exact .inr (.inr (.inr ⟨_, _, ‹_›, ‹_›, h⟩))

@[simp] theorem linkSteps_zero (s : State) : linkSteps 0 s = .next s := rfl

theorem linkSteps_succ_of_next {s t : State} {n : Nat} (h : linkStep s = .next t) :
    linkSteps (n + 1) s = linkSteps n t := by
  simp [linkSteps, h]

/-- Link steps compose. -/
theorem linkSteps_add {m n : Nat} {s t : State} (h : linkSteps m s = .next t) :
    linkSteps (m + n) s = linkSteps n t := by
  induction m generalizing s with
  | zero => rw [Nat.zero_add]; cases h; rfl
  | succ m ih =>
    rw [linkSteps] at h
    rw [Nat.add_right_comm, linkSteps]
    cases hs : linkStep s with
    | next u => rw [hs] at h; exact ih h
    | fault r => rw [hs] at h; cases h
    | refused r => rw [hs] at h; cases h

/-- Where a link step changes nothing, any number of them changes nothing. -/
theorem linkSteps_of_fixed {s : State} (h : linkStep s = .next s) (n : Nat) : linkSteps n s = .next s := by
  induction n with
  | zero => rfl
  | succ n ih => rw [linkSteps_succ_of_next h, ih]

/-- An ended operation takes no link step, whatever the transport has answered (60_exceptions R250). -/
theorem settle_of_none {s : State} (h : s.seq.cont = .none) : settle s = .next s :=
  linkSteps_of_fixed (linkStep_of_none h) _

@[simp] theorem thenSettle_next (s : State) : thenSettle (.next s) = settle s := rfl

@[simp] theorem settle_finish (k : ResultKind) (s : State) : settle (finish k s) = .next (finish k s) :=
  settle_of_none rfl

@[simp] theorem mapNext_next (f : State → State) (s : State) : mapNext f (.next s) = .next (f s) := rfl

/-! ## The step -/

/-- What a step can be: reset, an arrival, the operation in progress, an acceptance, or nothing. -/
theorem step_next {s t : State} (h : step s = .next t) :
    (s.resetIn = true ∧ t = resetBlock s) ∨
    (s.resetIn = false ∧ s.link.line ≠ [] ∧ arrivalStep s = .next t) ∨
    (s.resumesNext ∧ resumeStep s = .next t) ∨
    (s.acceptsNext ∧ exec (latchedInstr (accept s)) (accept s) = .next t) ∨
    (s.resetIn = false ∧ s.link.line = [] ∧ s.result.busy = false ∧ s.port.reqValid = false ∧ t = s) := by
  unfold step turn at h
  split at h
  · exact .inl ⟨‹_›, (Host.Outcome.next.inj h).symm⟩
  have hr : s.resetIn = false := by simpa using ‹¬ s.resetIn = true›
  split at h
  · exact .inr (.inl ⟨hr, ‹_›, h⟩)
  have hl : s.link.line = [] := by simpa using ‹¬ s.link.line ≠ []›
  split at h
  · exact .inr (.inr (.inl ⟨⟨hr, hl, ‹_›⟩, h⟩))
  have hb : s.result.busy = false := by simpa using ‹¬ s.result.busy = true›
  split at h
  · exact .inr (.inr (.inr (.inl ⟨⟨hr, hl, hb, ‹_›⟩, h⟩)))
  · exact .inr (.inr (.inr (.inr ⟨hr, hl, hb, by simpa using ‹¬ s.port.reqValid = true›,
      (Host.Outcome.next.inj h).symm⟩)))

end Sys2Proof.Machine
end

