-- ==== Sys2Proof/Laws/PerInstr.lean ====
section
/-! SUPPORT. A statement about every instruction as syntax, one lemma per constructor: in the encoding the encoder
writes, the reserved bits of a request are 0 (30_encoding R112, R115), and a frame starts with its direction's
header (R109). -/

namespace Sys2Proof.Laws.WrittenForm

open Sys2Proof Sys2Proof.Machine

/-- Reserved bits 0 in a request; HDR_QUERY or HDR_CONTROL first in a request frame, HDR_ANSWER in an answer. -/
def Statement (i : Instr) : Prop :=
  match encode i with
  | .request req0 req1 _ => req0.extractLsb' 3 5 = 0 ∧ req1.extractLsb' 9 23 = 0
  | .frame .request bytes => bytes.head? = some Config.hdrQuery ∨ bytes.head? = some Config.hdrControl
  | .frame (.answer _) bytes => bytes.head? = some Config.hdrAnswer

theorem packReq0_reserved (op : BitVec 3) (f d1 d2 : Byte) : (packReq0 op f d1 d2).extractLsb' 3 5 = 0 := by
  ext i hi
  have h1 : 3 + i < 8 := by omega
  have h2 : 3 + i < 16 := by omega
  have h3 : 3 + i < 24 := by omega
  simp [packReq0, getLsbD_fieldAt, h1, h2, h3]

theorem packReq1_reserved (dlen : Count) : (packReq1 dlen).extractLsb' 9 23 = 0 := by
  ext i hi
  simp [packReq1, getLsbD_fieldAt]

theorem chk (dlen : Count) (data : List Byte) : Statement (.chk dlen data) :=
  ⟨packReq0_reserved _ _ _ _, packReq1_reserved _⟩
theorem bq (f d1 d2 : Byte) : Statement (.bq f d1 d2) :=
  ⟨packReq0_reserved _ _ _ _, packReq1_reserved _⟩
theorem bc (f : Byte) (dlen : Count) (data : List Byte) : Statement (.bc f dlen data) :=
  ⟨packReq0_reserved _ _ _ _, packReq1_reserved _⟩
theorem send : Statement .send := ⟨packReq0_reserved _ _ _ _, packReq1_reserved _⟩
theorem pq : Statement .pq := ⟨packReq0_reserved _ _ _ _, packReq1_reserved _⟩
theorem pc : Statement .pc := ⟨packReq0_reserved _ _ _ _, packReq1_reserved _⟩
theorem xq (f d1 d2 : Byte) : Statement (.xq f d1 d2) :=
  ⟨packReq0_reserved _ _ _ _, packReq1_reserved _⟩
theorem xc (f : Byte) (dlen : Count) (data : List Byte) : Statement (.xc f dlen data) :=
  ⟨packReq0_reserved _ _ _ _, packReq1_reserved _⟩
theorem qreq (f a b c : Byte) : Statement (.qreq f a b c) := .inl rfl
theorem creq (f l : Byte) (d : List Byte) (c : Byte) : Statement (.creq f l d c) := .inr rfl
theorem ansQOk (n : Byte) (p : List Byte) (c : Byte) : Statement (.ansQOk n p c) := rfl
theorem ansQErr (st c : Byte) : Statement (.ansQErr st c) := rfl
theorem ansC (st c : Byte) : Statement (.ansC st c) := rfl

end Sys2Proof.Laws.WrittenForm
end

