-- ==== Sys2Proof/Tests/Slice0.lean ====
section
/-! SUPPORT. The model's own tests. Expected results are the vectors of spec 95_test_vectors (its number stands in
the comment) or written out by hand from the spec's encodings. Then one witness for each statement's hypotheses. -/

namespace Sys2Proof.Tests

open Sys2Proof Sys2Proof.Machine

/-! ## Helpers -/

/-- A view of the next state, if there is one. -/
def view {α : Type} (o : Out) (f : State → α) : Option α :=
  match o with
  | .next t => some (f t)
  | _ => none

/-- Run `g` on the next state, if there is one. -/
def andThen (o : Out) (g : State → Out) : Out :=
  match o with
  | .next t => g t
  | _ => o

/-- After reset, with the transport's answers to come. -/
def ready (tx : List TxAnswer) (rx : List RxAnswer) : State := grantRx rx (grantTx tx State.reset)

/-- Bytes to be received. -/
def bytes (l : List Byte) : List RxAnswer := l.map RxAnswer.byte

/-- `n` accepted `TxByte` steps. -/
def oks (n : Nat) : List TxAnswer := List.replicate n .ok

/-- RESULT_KIND, STATUS_CODE, RX_CK, CALC_CK, RX_COUNT and what is left of the receive stream. -/
structure Ended where
  kind   : ResultKind
  status : StatusCode
  rxCk   : Byte
  calcCk : Byte
  count  : Count
  left   : List RxAnswer
  deriving DecidableEq, Repr

/-- How an operation ended. -/
def outcome (t : State) : Ended :=
  ⟨t.result.resultKind, t.result.statusCode, t.result.rxCk, t.result.calcCk, t.result.rxCount, t.link.rxStream⟩

/-- RN0 as the host reads it. -/
def stat (t : State) : Option HostWord := specifiedRead .rn0 t

/-! ## Decoding: words written out bit by bit from the spec's encodings -/

/-- R112: OP = 000, DLEN = 2. -/
theorem test_decode_chk :
    decode (.request 0b00000000000000000000000000000000 0b00000000000000000000000000000010 [0xFF, 0x01])
      = .ok (.chk 2 [0xFF, 0x01]) := by decide
/-- R112: D2 = 11111111, D1 = 11111111, FUNC = 00000001, OP = 001. -/
theorem test_decode_bq :
    decode (.request 0b11111111111111110000000100000001 0 []) = .ok (.bq 0x01 0xFF 0xFF) := by decide
/-- R112: FUNC = 00000101, OP = 010, DLEN = 1. -/
theorem test_decode_bc :
    decode (.request 0b00000000000000000000010100000010 0b1 [0x0C]) = .ok (.bc 0x05 1 [0x0C]) := by decide
/-- R112: OP = 011. -/
theorem test_decode_send : decodeTableWord 32 0b011 = some .send := by decide
/-- R112: OP = 100. -/
theorem test_decode_pq : decodeTableWord 32 0b100 = some .pq := by decide
/-- R112: OP = 101. -/
theorem test_decode_pc : decodeTableWord 32 0b101 = some .pc := by decide
/-- R112: D2 = 00000001, D1 = 00000000, FUNC = 00110000, OP = 110. -/
theorem test_decode_xq :
    decodeTableWord 32 0b00000001000000000011000000000110 = some (.xq 0x30 0x00 0x01) := by decide
/-- R112: OP = 111, DLEN = 1. -/
theorem test_decode_xc : decode (.request 0b111 0b1 [0x01]) = .ok (.xc 0x00 1 [0x01]) := by decide
/-- R115: reserved bits [7:3] are ignored. -/
theorem test_decode_reserved : decodeTableWord 32 0x000000F9 = some (.bq 0 0 0) := by decide
/-- R101: 10000011 00000000 f a b c. -/
theorem test_decode_qreq :
    decode (.frame .request [0b10000011, 0b00000000, 0x02, 0xFF, 0xFF, 0x83])
      = .ok (.qreq 0x02 0xFF 0xFF 0x83) := by decide
/-- R102: 10001100 00000000 f l d c. -/
theorem test_decode_creq :
    decode (.frame .request [0b10001100, 0b00000000, 0x00, 0x02, 0x01, 0x8F])
      = .ok (.creq 0x00 0x02 [0x01] 0x8F) := by decide
/-- R103: 01110000 00000000 n p c. -/
theorem test_decode_ansQOk :
    decode (.frame (.answer .query) [0b01110000, 0b00000000, 0x03, 0x03, 0x04, 0x7A])
      = .ok (.ansQOk 0x03 [0x03, 0x04] 0x7A) := by decide
/-- R104: 01110000 s c. -/
theorem test_decode_ansQErr : decodeTableWord 24 0b011100000000001101110011 = some (.ansQErr 0x03 0x73) := by
  decide
/-- R105: 01110000 s c. -/
theorem test_decode_ansC :
    decode (.frame (.answer .control) [0b01110000, 0x02, 0x72]) = .ok (.ansC 0x02 0x72) := by decide
/-- R109: any other header is no answer. -/
theorem test_decode_wrong_header :
    decode (.frame (.answer .control) [0x71, 0x00, 0x71]) = .error .notAnswerHeader := by decide

/-- R117: DLEN is the list's length, 511 at most; a longer list assembles to nothing (log 20). -/
theorem test_assemble_length (l m : List Byte) (hl : l.length = 512) (hm : m.length = 511) :
    asmOperand l = none ∧ asmOperand m = some (511, m.take 259) := by
  simp [asmOperand, hl, hm, Config.dataMax]

/-! ## WellFormed: an ill-formed term for each check -/

/-- DLEN = 2 with one data byte. -/
theorem test_wf_chk : (Instr.chk 2 [0x01]).wf = false := by decide
/-- DLEN = 0 with one data byte. -/
theorem test_wf_bc : (Instr.bc 0x10 0 [0x01]).wf = false := by decide
/-- DLEN = 1 with no data byte. -/
theorem test_wf_xc : (Instr.xc 0x10 1 []).wf = false := by decide
/-- A request frame with a wrong checksum. -/
theorem test_wf_qreq : (Instr.qreq 0x02 0xFF 0xFF 0x84).wf = false := by decide
/-- A control frame whose length byte counts the data only. -/
theorem test_wf_creq_length : (Instr.creq 0x00 0x01 [0x01] 0x8E).wf = false := by decide
/-- A control frame with a wrong checksum. -/
theorem test_wf_creq_checksum : (Instr.creq 0x00 0x02 [0x01] 0x8E).wf = false := by decide
/-- The answer of 90_conflicts C1, whose length byte counts the payload only. -/
theorem test_wf_ansQOk : (Instr.ansQOk 0x02 [0x03, 0x04] 0x79).wf = false := by decide
/-- An abnormal answer with status Completed. -/
theorem test_wf_ansQErr : (Instr.ansQErr 0x00 0x70).wf = false := by decide

/-! ## The instructions, by the spec's vectors -/

/-- L2.2: CHK of 8C 00 00 02 01 is 8F. -/
theorem test_chk :
    view (issue (.chk 5 [0x8C, 0x00, 0x00, 0x02, 0x01]) State.reset) (fun t => (t.result.calcCk, stat t))
      = some (0x8F, some 0x000000E2) := by decide
/-- L2.2: DLEN = 260 is LENGTH, CALC_CK = 00. -/
theorem test_chk_length :
    view (issue (.chk 260 []) State.reset) (fun t => (t.result.calcCk, stat t)) = some (0x00, some 0x000000F6) := by
  decide
/-- L2.3: header values as data are carried unchanged. -/
theorem test_bq :
    view (issue (.bq 0x83 0x8C 0x70) State.reset) (fun t => (t.frameBytes, t.result.calcCk))
      = some ([0x83, 0x00, 0x83, 0x8C, 0x70, 0x02], 0x02) := by decide
/-- L2.4: BC 0x13, FF FF. -/
theorem test_bc :
    view (issue (.bc 0x13 2 [0xFF, 0xFF]) State.reset) (fun t => (t.frameBytes, t.result.frameLen))
      = some ([0x8C, 0x00, 0x13, 0x03, 0xFF, 0xFF, 0xA0], 7) := by decide
/-- L3 P4: a LENGTH result of BC leaves FRAME_LEN = 0 and SEND sends nothing. -/
theorem test_bc_length :
    view (andThen (issue (.bq 0x01 0xFF 0xFF) State.reset) fun a => andThen (issue (.bc 0x10 255 []) a) (perform .send))
      (fun t => (stat t, t.result.frameLen, t.link.history)) = some (some 0x000000E2, 0, []) := by decide
/-- L2.5: a write failure on the third byte. -/
theorem test_send_write_failure :
    view (andThen (issue (.bq 0x00 0xFF 0xFF) (ready [.ok, .ok, .ioerr] [])) (perform .send))
      (fun t => (stat t, t.result.txCount, t.link.history))
      = some (some 0x000000F2, 2, sentOk [0x83, 0x00] ++ [LinkEvent.tx 0x00 .ioerr]) := by decide
/-- L2.10: reset during SEND after two bytes, the transport already holding the other four answers. -/
theorem test_send_reset :
    view (andThen (issue (.bq 0x00 0xFF 0xFF) (ready (oks 6) [])) fun a => andThen (issue .send a) fun b =>
        andThen (step b) fun c => andThen (step c) fun d => step (assertReset d))
      (fun t => (stat t, t.result.frameLen, t.link.history, t.link.txAnswers))
      = some (some 0x000000E0, 0, sentOk [0x83, 0x00], oks 4) := by decide
/-- L2.6: two payload bytes, a following answer left unread. -/
theorem test_pq :
    view (perform .pq (ready [] (bytes [0x70, 0x00, 0x03, 0x03, 0x04, 0x7A, 0x70])))
      (fun t => (outcome t, t.payloadBytes))
      = some (⟨.ok, .completed, 0x7A, 0x7A, 6, bytes [0x70]⟩, [0x03, 0x04]) := by decide
/-- L2.6: the frame of §8 as printed ends CHECKSUM and leaves 79. -/
theorem test_pq_checksum :
    view (perform .pq (ready [] (bytes [0x70, 0x00, 0x02, 0x03, 0x04, 0x79]))) outcome
      = some ⟨.checksum, .none, 0x04, 0x75, 5, bytes [0x79]⟩ := by decide
/-- L2.7: 70 90 00 wraps to a valid checksum, status Unknown. -/
theorem test_pc :
    view (perform .pc (ready [] (bytes [0x70, 0x90, 0x00]))) outcome = some ⟨.status, .unknown, 0x00, 0x00, 3, []⟩ := by
  decide
/-- L2.7: CHECKSUM beats STATUS. -/
theorem test_pc_checksum :
    view (perform .pc (ready [] (bytes [0x70, 0x02, 0x00]))) outcome = some ⟨.checksum, .none, 0x00, 0x72, 3, []⟩ := by
  decide
/-- L2.8: XQ 0x30, 0x00, 0x01; CALC_CK is the parse stage's. -/
theorem test_xq :
    view (perform (.xq 0x30 0x00 0x01) (ready (oks 6) (bytes [0x70, 0x00, 0x02, 0x05, 0x77])))
      (fun t => (outcome t, t.payloadBytes, t.result.txCount, t.link.history.take 6))
      = some (⟨.ok, .completed, 0x77, 0x77, 5, []⟩, [0x05], 6, sentOk [0x83, 0x00, 0x30, 0x00, 0x01, 0xB4]) := by
  decide
/-- L2.8: a write failure reads nothing. -/
theorem test_xq_write_failure :
    view (perform (.xq 0x02 0xFF 0xFF) (ready (oks 3 ++ [.ioerr]) (bytes [0x70, 0x00, 0x70])))
      (fun t => (stat t, t.result.txCount, t.link.rxStream, t.result.frameLen))
      = some (some 0x000000F2, 3, bytes [0x70, 0x00, 0x70], 6) := by decide
/-- L2.9: XC 0x00, 01 answered 70 01 71. -/
theorem test_xc :
    view (perform (.xc 0x00 1 [0x01]) (ready (oks 6) (bytes [0x70, 0x01, 0x71])))
      (fun t => (outcome t, t.result.txCount, t.link.history.take 6))
      = some (⟨.status, .limitOverUpper, 0x71, 0x71, 3, []⟩, 6, sentOk [0x8C, 0x00, 0x00, 0x02, 0x01, 0x8F]) := by
  decide
/-- L2.9: 255 data bytes: nothing sent, nothing read. -/
theorem test_xc_length :
    view (perform (.xc 0x10 255 []) (ready (oks 6) (bytes [0x70])))
      (fun t => (stat t, t.result.frameLen, t.link.history)) = some (some 0x000000F6, 0, []) := by decide

/-- A SEND that waits before its first byte, with this request frame in FRAME, and these answers to come. -/
def offering (fr : List Byte) (tx : List TxAnswer) : State := grantTx tx (placeRequestFrame fr State.reset)

/-- A parse of this kind that waits for its head. -/
def parsing (k : AnswerKind) : State := startHead k (accept (hostPresent 4 0 [] State.reset))

/-- R101, R162: the frame goes out whole. -/
theorem test_qreq :
    view (thenSettle (step (offering [0x83, 0x00, 0x02, 0xFF, 0xFF, 0x83] (oks 6)))) (fun t => (stat t, t.link.history))
      = some (some 0x000000E2, sentOk [0x83, 0x00, 0x02, 0xFF, 0xFF, 0x83]) := by decide
/-- R102, R162: the frame goes out whole. -/
theorem test_creq :
    view (thenSettle (exec (.creq 0x05 0x01 [] 0x92) (offering [0x8C, 0x00, 0x05, 0x01, 0x92] (oks 5))))
      (fun t => (stat t, t.link.history)) = some (some 0x000000E2, sentOk [0x8C, 0x00, 0x05, 0x01, 0x92]) := by decide
/-- R103: the answer ends a waiting PQ. -/
theorem test_ansQOk :
    view (thenSettle (exec (.ansQOk 0x02 [0x01] 0x73) (parsing .query))) (fun t => (outcome t, t.payloadBytes))
      = some (⟨.ok, .completed, 0x73, 0x73, 5, []⟩, [0x01]) := by decide
/-- R104: L2.6, 0x01 is Unknown in a query answer. -/
theorem test_ansQErr :
    view (thenSettle (exec (.ansQErr 0x01 0x71) (parsing .query))) outcome = some ⟨.status, .unknown, 0x71, 0x71, 3, []⟩ := by
  decide
/-- R105: L2.7, 0x01 is LimitOverUpper in a control answer. -/
theorem test_ansC :
    view (thenSettle (exec (.ansC 0x01 0x71) (parsing .control))) outcome
      = some ⟨.status, .limitOverUpper, 0x71, 0x71, 3, []⟩ := by decide

/-- R76: bytes the device puts behind those still on the line are not lost and arrive after them (log 21). -/
theorem test_line_keeps_order :
    (deviceSends .query [0x73] (deviceSends .query [0x70, 0x03] State.reset)).link.line = [0x70, 0x03, 0x73] ∧
    view (step (deviceSends .query [0x73] (deviceSends .query [0x70, 0x03] State.reset))) (fun t => t.link.rxStream)
      = some (bytes [0x70, 0x03, 0x73]) := by decide

/-! ## Acceptance, fetch and host reads -/

/-- The table's words run as the first step after reset. -/
theorem test_fetch_word :
    step (State.reset.withFetchWord 32 0xFFFF0101) =
      exec (.bq 0x01 0xFF 0xFF) (accept (placeRequest 0xFFFF0101 0 (List.replicate 259 0) State.reset)) := by rfl
/-- An answer row arrives as the first step after reset and is held. -/
theorem test_fetch_answer :
    view (step (State.reset.withFetchWord 24 0x700070)) (fun t => t.link.rxStream) = some (bytes [0x70, 0x00, 0x70]) := by
  decide
/-- L2.10: a request presented while PQ waits is accepted after it ends, three bytes later. -/
theorem test_request_waits :
    view (andThen (issue .pq State.reset) fun a => andThen (step (hostPresent 0 0 [] a)) fun b =>
        andThen (settle (grantRx (bytes [0x70, 0x03, 0x73]) b)) step)
      (fun t => (stat t, t.port.reqValid)) = some (some 0x000000E2, false) := by decide
/-- L2.10: RN0 reads 0x000000E0 after reset; L3 P1 gives the others. -/
theorem test_rn_images :
    (view (perform (.xq 0x02 0xFF 0xFF) (ready (oks 6) (bytes [0x70, 0x00, 0x03, 0x03, 0x04, 0x7A]))) fun t =>
      [stat t, specifiedRead .rn1 t, specifiedRead .rn2 t, specifiedRead .rn3 t, specifiedRead .rn4 t,
        specifiedRead (.payload 1) t, specifiedRead (.payload 2) t])
      = some [some 0x00000002, some 0x00030070, some 0x00027A7A, some 0x00060006, some 0x00000006,
          some 0x00000004, none] := by decide

/-! ## Witnesses: a state and operands that meet each statement's hypotheses, clause by clause at a boundary -/

set_option maxRecDepth 10000

/-- A state with this frame length recorded and these answers to come. -/
def withLength (n : Count) (tx : List TxAnswer) : State :=
  setFrameLen n (ready tx [])

/-- The next state, or the reset state where there is none. -/
def nextOf (o : Out) : State :=
  match o with
  | .next t => t
  | _ => State.reset

/-- Answers to come for a parse. -/
def stream (l : List Byte) (more : List RxAnswer) : State := ready [] (bytes l ++ more)

theorem witness_DecodeOfEncodeIsIdentity :
    (Instr.chk 259 (List.replicate 259 0)).wf ∧ (Instr.chk 511 (List.replicate 259 0)).wf ∧ (Instr.bc 0 0 []).wf ∧
    (Instr.qreq 0x02 0xFF 0xFF 0x83).wf ∧ (Instr.creq 0x05 0x01 [] 0x92).wf ∧
    (Instr.ansQOk 0x01 [] 0x00).wf ∧ (Instr.ansQOk 0xFF (List.replicate 254 0) 0x6F).wf ∧
    (Instr.ansQErr 0x01 0x00).wf := by decide

theorem witness_DecodedFrameReencodesToItsBytes :
    decode (.frame .request [0x8C, 0x00, 0x05, 0x01, 0x92]) = .ok (.creq 0x05 0x01 [] 0x92) ∧
    decode (.frame (.answer .query) [0x70, 0x00, 0x01, 0x71]) = .ok (.ansQOk 0x01 [] 0x71) ∧
    decode (.frame (.answer .query) [0x70, 0x01, 0x71]) = .ok (.ansQErr 0x01 0x71) ∧
    decode (.frame (.answer .control) [0x70, 0x00, 0x70]) = .ok (.ansC 0x00 0x70) := by decide

theorem witness_RequestWordsSelectTheOperation : (List.replicate 259 (0x01 : Byte)).length = 259 := by decide

theorem witness_BuiltFramesValidate :
    (view (exec (.bq 0x02 0xFF 0xFF) State.reset) fun _ => true) = some true ∧
    (view (andThen (exec (.xq 0x02 0xFF 0xFF) (ready (oks 6) [])) (linkSteps 6)) fun _ => true) = some true ∧
    (254 : Count).toNat ≤ 254 ∧ (0 : Count).toNat ≤ 254 ∧
    (view (exec (.bc 0x05 0 []) State.reset) fun _ => true) = some true ∧
    (view (andThen (exec (.xc 0x05 1 [0x0C]) (ready (oks 6) [])) (linkSteps 3)) fun _ => true) = some true := by
  decide

theorem witness_SumPreservingCorruptionsStayValid :
    validFrame ([] ++ [0x70] ++ [] ++ [0x00] ++ [] ++ [0x70]) = true := by decide

theorem witness_ChkWritesTheChecksumOrLength :
    (Instr.chk 259 (List.replicate 259 0)).wf ∧ (259 : Count).toNat ≤ 259 ∧
    (Instr.chk 260 (List.replicate 259 0)).wf ∧ 259 < (260 : Count).toNat := by decide

theorem witness_BcBuildsTheControlFrameOrLength :
    (Instr.bc 0x10 254 (List.replicate 254 0xAB)).wf ∧ (254 : Count).toNat ≤ 254 ∧
    (Instr.bc 0x10 255 (List.replicate 255 0x00)).wf ∧ 254 < (255 : Count).toNat := by decide

theorem witness_SendTransmitsTheFrame :
    (withLength 0 [.ioerr]).result.frameLen.toNat ≤ 259 ∧
    (withLength 0 [.ioerr]).link.txAnswers =
      List.replicate (withLength 0 [.ioerr]).result.frameLen.toNat .ok ++ [.ioerr] ∧
    (withLength 259 (oks 259)).result.frameLen.toNat ≤ 259 ∧
    (withLength 259 (oks 259)).link.txAnswers =
      List.replicate (withLength 259 (oks 259)).result.frameLen.toNat .ok ++ [] := by decide

theorem witness_SendStopsAtAWriteFailure :
    (withLength 6 (oks 0 ++ [.ioerr])).frameBytes[0]? = some 0x00 ∧
    (withLength 6 (oks 5 ++ [.ioerr])).result.frameLen.toNat ≤ 259 ∧
    (withLength 6 (oks 5 ++ [.ioerr])).frameBytes[5]? = some 0x00 ∧
    (withLength 6 (oks 5 ++ [.ioerr])).link.txAnswers = List.replicate 5 .ok ++ .ioerr :: [] := by decide

theorem witness_SendWaitsForTheTransport :
    (withLength 6 (oks 5)).result.frameLen.toNat ≤ 259 ∧ 5 < (withLength 6 (oks 5)).result.frameLen.toNat ∧
    (withLength 6 (oks 5)).link.txAnswers = List.replicate 5 .ok ++ [] ∧
    0 < (withLength 1 []).result.frameLen.toNat ∧ (withLength 1 [.ioerr]).link.txAnswers =
      List.replicate 0 .ok ++ [.ioerr] := by
  decide

theorem witness_FramePersistsOverOtherOperations :
    (view (exec (.chk 1 [0x01]) State.reset) fun _ => true) = some true ∧
    (view (exec .send State.reset) fun _ => true) = some true ∧
    (view (exec .pq State.reset) fun _ => true) = some true ∧
    (view (exec .pc State.reset) fun _ => true) = some true ∧
    (view (linkStep (nextOf (exec .pc (stream [0x70] [])))) fun _ => true) = some true := by decide

theorem witness_ControlStatusTable :
    (0x01 : Byte) ≠ 0x00 ∧ (stream (ansShort 0x01) []).link.rxStream = (ansShort 0x01).map RxAnswer.byte ++ [] ∧
    (0x05 : Byte) ≠ 0x00 ∧ (stream (ansShort 0x05) []).link.rxStream = (ansShort 0x05).map RxAnswer.byte ++ [] := by
  decide

theorem witness_QueryStatusTable :
    (0x02 : Byte) ≠ 0x00 ∧ (stream (ansShort 0x02) []).link.rxStream = (ansShort 0x02).map RxAnswer.byte ++ [] ∧
    (0x03 : Byte) ≠ 0x00 ∧ (stream (ansShort 0x03) []).link.rxStream = (ansShort 0x03).map RxAnswer.byte ++ [] := by
  decide

theorem witness_WrongHeaderEndsWithFraming :
    (0x71 : Byte) ≠ 0x70 ∧ (stream [0x71, 0x03, 0x74] [.byte 0x01]).link.rxStream =
      [RxAnswer.byte 0x71, .byte 0x03, .byte 0x74] ++ [.byte 0x01] ∧
    (accept (stream [0x71, 0x03, 0x74] [.byte 0x01])).result =
      (accept (stream [0x71, 0x03, 0x74] [.byte 0x01])).result.atAcceptance ∧
    (accept (stream [0x71, 0x03, 0x74] [.byte 0x01])).link.rxStream =
      [RxAnswer.byte 0x71, .byte 0x03, .byte 0x74] ++ [.byte 0x01] := by decide

theorem witness_HeadReadFailureEndsWithIo :
    ([] : List Byte).length < 3 ∧ (stream [] [.ioerr]).link.rxStream = [].map RxAnswer.byte ++ .ioerr :: [] ∧
    [(0x70 : Byte), 0x00].length < 3 ∧ (stream [0x70, 0x00] [.ioerr]).link.rxStream =
      [(0x70 : Byte), 0x00].map RxAnswer.byte ++ .ioerr :: [] := by decide

theorem witness_ParseWaitsForTheHead :
    [(0x70 : Byte), 0x00].length < 3 ∧
    (stream [0x70, 0x00] []).link.rxStream = [(0x70 : Byte), 0x00].map RxAnswer.byte ++ [] := by decide

theorem witness_PqAbnormalAnswer :
    (0x03 : Byte) ≠ 0x00 ∧
    (stream [0x70, 0x03, 0x73] []).link.rxStream = [RxAnswer.byte 0x70, .byte 0x03, .byte 0x73] ++ [] ∧
    (stream [0x70, 0x03, 0x00] []).link.rxStream = [RxAnswer.byte 0x70, .byte 0x03, .byte 0x00] ++ [] := by decide

theorem witness_PqNormalAnswer :
    (0x01 : Byte).toNat = ([] : List Byte).length + 1 ∧
    (stream [0x70, 0x00, 0x01, 0x71] []).link.rxStream =
      ([0x70, 0x00, 0x01] ++ [] ++ [0x71]).map RxAnswer.byte ++ [] ∧
    (0x71 : Byte) = checksum ([0x70, 0x00, 0x01] ++ []) ∧
    (0xFF : Byte).toNat = (List.replicate 254 (0x01 : Byte)).length + 1 ∧
    (stream ([0x70, 0x00, 0xFF] ++ List.replicate 254 0x01 ++ [0x00]) []).link.rxStream =
      ([0x70, 0x00, 0xFF] ++ List.replicate 254 0x01 ++ [0x00]).map RxAnswer.byte ++ [] ∧
    (0x00 : Byte) ≠ checksum ([0x70, 0x00, 0xFF] ++ List.replicate 254 0x01) := by decide

theorem witness_PqLengthZeroEndsWithChecksum :
    (stream [0x70, 0x00, 0x00] []).result.rxCount = 0 ∧ (stream [0x70, 0x00, 0x00] []).link.rxStream =
      [RxAnswer.byte 0x70, .byte 0x00, .byte 0x00] ++ [] := by decide

theorem witness_PqBodyReadFailureEndsWithIo :
    [(0x03 : Byte)].length < (0x03 : Byte).toNat ∧ (stream [0x70, 0x00, 0x03, 0x03] [.ioerr]).link.rxStream =
      ([0x70, 0x00, 0x03] ++ [0x03]).map RxAnswer.byte ++ .ioerr :: [] := by decide

theorem witness_PqWaitsForTheAnnouncedBody :
    ([] : List Byte).length < (0x70 : Byte).toNat ∧ (stream [0x70, 0x00, 0x70] []).link.rxStream =
      ([0x70, 0x00, 0x70] ++ []).map RxAnswer.byte ++ [] := by decide

theorem witness_PcAnswer :
    (stream [0x70, 0x00, 0x70] [.ioerr]).link.rxStream =
      [RxAnswer.byte 0x70, .byte 0x00, .byte 0x70] ++ [.ioerr] := by decide

theorem witness_WellFormedAnswersRoundTrip :
    State.reset.result.rxCount = 0 ∧ (List.replicate 254 (0x01 : Byte)).length ≤ 254 ∧
    (stream (ansQ []) [.byte 0x00]).link.rxStream = (ansQ []).map RxAnswer.byte ++ [.byte 0x00] ∧
    (stream (ansQ (List.replicate 254 0x01)) []).link.rxStream =
      (ansQ (List.replicate 254 0x01)).map RxAnswer.byte ++ [] ∧
    (0x01 : Byte) ≠ 0x00 ∧ (stream (ansShort 0x01) []).link.rxStream = (ansShort 0x01).map RxAnswer.byte ++ [] ∧
    (stream (ansShort 0x00) []).link.rxStream = (ansShort 0x00).map RxAnswer.byte ++ [] := by decide

theorem witness_PayloadPersistsUntilASuccessfulParse :
    State.reset.resetIn = false ∧ (view (step State.reset) fun _ => true) = some true ∧
    (view (step (nextOf (linkSteps 4 (nextOf (issue .pq (stream (ansQ [0x01]) [])))))) fun t =>
      decide (t.endedWith .ok)) = some true := by
  decide

theorem witness_XqSendsThenParses :
    (ready (oks 6) []).link.txAnswers = List.replicate 6 .ok ++ [] := by decide

theorem witness_XcSendsThenParsesOrLength :
    (Instr.xc 0x00 0 []).wf ∧ (0 : Count).toNat ≤ 254 ∧
    (ready (oks 5) []).link.txAnswers = List.replicate ((0 : Count).toNat + 5) .ok ++ [] ∧
    (Instr.xc 0x00 254 (List.replicate 254 0)).wf ∧
    (ready (oks 259) []).link.txAnswers = List.replicate ((254 : Count).toNat + 5) .ok ++ [] ∧
    (Instr.xc 0x00 255 (List.replicate 255 0)).wf ∧ 254 < (255 : Count).toNat := by decide

theorem witness_ExchangeWriteFailureReadsNothing :
    ([0x83, 0x00, 0x02, 0xFF, 0xFF, 0x83] : List Byte)[5]? = some 0x83 ∧
    (ready (oks 5 ++ [.ioerr]) []).link.txAnswers = List.replicate 5 .ok ++ .ioerr :: [] ∧
    (Instr.xc 0x05 0 []).wf ∧ (0 : Count).toNat ≤ 254 ∧
    ([0x8C, 0x00, 0x05, BitVec.ofNat 8 ((0 : Count).toNat + 1)] ++ [] ++
      [checksum ([0x8C, 0x00, 0x05, BitVec.ofNat 8 ((0 : Count).toNat + 1)] ++ [])])[0]? = some 0x8C ∧
    (ready [.ioerr] []).link.txAnswers = List.replicate 0 .ok ++ .ioerr :: [] := by decide

theorem witness_XqCompletesOnAWellFormedAnswer :
    [(0x03 : Byte), 0x04].length ≤ 254 ∧ (ready (oks 6) (bytes (ansQ [0x03, 0x04]))).link.txAnswers =
      List.replicate 6 .ok ++ [] ∧
    (ready (oks 6) (bytes (ansQ [0x03, 0x04]))).link.rxStream = (ansQ [0x03, 0x04]).map RxAnswer.byte ++ [] := by
  decide

theorem witness_XcCompletesOnAWellFormedAnswer :
    (Instr.xc 0x00 1 [0x01]).wf ∧ (1 : Count).toNat ≤ 254 ∧
    (ready (oks 6) (bytes (ansShort 0x00))).link.txAnswers = List.replicate ((1 : Count).toNat + 5) .ok ++ [] ∧
    (ready (oks 6) (bytes (ansShort 0x00))).link.rxStream = (ansShort 0x00).map RxAnswer.byte ++ [] := by decide

theorem witness_ExchangesWriteBeforeTheyRead :
    (view (andThen (exec (.xq 0x02 0xFF 0xFF) (ready (oks 6) (bytes (ansQ [])))) (linkSteps 10)) fun t =>
      decide (t.endedWith .ok)) = some true ∧
    (view (andThen (exec (.xc 0x00 1 [0x01]) (ready (oks 6) (bytes (ansShort 0x00)))) (linkSteps 9)) fun t =>
      decide (t.endedWith .ok)) = some true := by decide

theorem witness_QueryExchangeIsBuildSendParse :
    (ready (oks 6) []).resetIn = false ∧ (ready (oks 6) []).link.line = [] ∧
    (ready (oks 6) []).result.busy = false ∧
    (ready (oks 6) []).link.txAnswers = List.replicate 6 .ok ++ [] := by decide

theorem witness_ControlExchangeIsBuildSendParse :
    (Instr.xc 0x00 1 [0x01]).wf ∧ (Instr.xc 0x00 255 (List.replicate 255 0)).wf ∧ 254 < (255 : Count).toNat ∧
    (ready (oks 6) []).resetIn = false ∧ (ready (oks 6) []).link.line = [] ∧
    (ready (oks 6) []).result.busy = false ∧ (1 : Count).toNat ≤ 254 ∧
    (ready (oks 6) []).link.txAnswers = List.replicate ((1 : Count).toNat + 5) .ok ++ [] := by decide

/-- A SEND before its first byte, the shortest control frame in FRAME. -/
def offeringCreq : State := offering [0x8C, 0x00, 0x05, 0x01, 0x92] (oks 5)

/-- A SEND before its first byte, a query frame in FRAME. -/
def offeringQreq : State := offering [0x83, 0x00, 0x02, 0xFF, 0xFF, 0x83] (oks 6)

/-- An XQ before its first byte, the transport having accepted nothing yet. -/
def exchanging : State := grantTx (oks 6) (nextOf (issue (.xq 0x02 0xFF 0xFF) State.reset))

theorem witness_OfferedRequestFrameIsTransmitted :
    (Instr.creq 0x05 0x01 [] 0x92).wf ∧ offeringCreq.seq.cont = .send none ∧ offeringCreq.seq.idx = 0 ∧
    offeringCreq.result.frameLen.toNat ≤ 259 ∧
    offeringCreq.frameBytes = wireBytes (.creq 0x05 0x01 [] 0x92) ∧
    offeringCreq.link.txAnswers = List.replicate offeringCreq.result.frameLen.toNat .ok ++ [] ∧
    (Instr.qreq 0x02 0xFF 0xFF 0x83).wf ∧ offeringQreq.seq.cont = .send none ∧ offeringQreq.seq.idx = 0 ∧
    offeringQreq.result.frameLen.toNat ≤ 259 ∧
    offeringQreq.frameBytes = wireBytes (.qreq 0x02 0xFF 0xFF 0x83) ∧
    offeringQreq.link.txAnswers = List.replicate offeringQreq.result.frameLen.toNat .ok ++ [] ∧
    exchanging.seq.cont = .send (some .query) ∧ exchanging.seq.idx = 0 ∧
    exchanging.result.frameLen.toNat ≤ 259 ∧ exchanging.frameBytes = wireBytes (.qreq 0x02 0xFF 0xFF 0x83) ∧
    exchanging.link.txAnswers = List.replicate exchanging.result.frameLen.toNat .ok ++ [] := by decide

theorem witness_UnofferedRequestFrameChangesNothing :
    (∀ p, State.reset.seq.cont ≠ .send p) ∧ offeringCreq.frameBytes ≠ wireBytes (.qreq 0x02 0xFF 0xFF 0x83) ∧
    (nextOf (linkStep offeringQreq)).seq.idx ≠ 0 := by
  refine ⟨fun p => ?_, ?_, ?_⟩
  · exact Cont.noConfusion
  · decide
  · decide

theorem witness_NormalAnswerEndsAWaitingQueryParse :
    (0x01 : Byte).toNat = ([] : List Byte).length + 1 ∧ (parsing .query).seq.cont = .head .query ∧
    (parsing .query).seq.idx = 0 ∧ (parsing .query).link.rxStream = [] := by decide

theorem witness_ShortAnswerEndsAWaitingParse :
    (parsing .query).seq.idx = 0 ∧ (parsing .query).link.rxStream = [] ∧
    (parsing .query).seq.cont = .head .query ∧ (0x01 : Byte) ≠ 0x00 ∧
    (parsing .control).seq.idx = 0 ∧ (parsing .control).link.rxStream = [] ∧
    (parsing .control).seq.cont = .head .control := by decide

/-- A request for BQ 0x02 at an idle block. -/
def requested : State := hostPresent 0xFFFF0201 0 [] State.reset

theorem witness_AcceptanceClearsTheRecord : requested.acceptsNext := by decide

theorem witness_StepRunsTheDecodedRequest :
    requested.acceptsNext ∧
    decode (.request requested.port.req0 requested.port.req1 (requested.port.data.readBytes 0 259))
      = .ok (.bq 0x02 0xFF 0xFF) := by decide

theorem witness_StepRunsTheDecodedFrame :
    offeringQreq.resumesNext ∧ offeringQreq.seq.cont = .send none ∧ offeringQreq.seq.idx = 0 ∧
    offeringQreq.result.frameLen.toNat ≤ 259 ∧
    decode (.frame .request offeringQreq.frameBytes) = .ok (.qreq 0x02 0xFF 0xFF 0x83) ∧
    (deviceSends .control [0x70, 0x00, 0x70] State.reset).resetIn = false ∧ (Instr.ansC 0x00 0x70).wf ∧
    encode (.ansC 0x00 0x70) = .frame (.answer (deviceSends .control [0x70, 0x00, 0x70] State.reset).link.lineKind)
      (deviceSends .control [0x70, 0x00, 0x70] State.reset).link.line := by decide

theorem witness_RequestWaitsWhileBusy :
    (deviceSends .control [0x55] (parsing .query)).resetIn = false ∧
    (deviceSends .control [0x55] (parsing .query)).result.busy = true ∧
    (view (step (deviceSends .control [0x55] (parsing .query))) fun _ => true) = some true ∧
    (hostPresent 0 0 [] (parsing .query)).resumesNext ∧
    (view (step (hostPresent 0 0 [] (parsing .query))) fun _ => true) = some true := by decide

/-- A query parse that has taken its head and waits in its body. -/
def bodyWaiting : State := nextOf (perform .pq (stream [0x70, 0x00, 0x03] []))

theorem witness_UnansweredOperationWaitsForever :
    (parsing .query).resumesNext ∧ (parsing .query).seq.cont = .head .query ∧ (parsing .query).link.rxStream = [] ∧
    (offering [0x8C, 0x00, 0x05, 0x01, 0x92] []).resumesNext ∧
    (offering [0x8C, 0x00, 0x05, 0x01, 0x92] []).seq.cont = .send none ∧
    (offering [0x8C, 0x00, 0x05, 0x01, 0x92] []).link.txAnswers = [] ∧
    bodyWaiting.resumesNext ∧
    bodyWaiting.seq.cont = .body ∧
    bodyWaiting.link.rxStream = [] := by decide

theorem witness_ResetGivesTheResetValues :
    (assertReset (parsing .query)).resetIn = true ∧ (assertReset (parsing .query)).result.busy = true := by decide

theorem witness_SendAfterResetTransmitsNothing :
    (assertReset offeringQreq).resetIn = true ∧ (assertReset offeringQreq).link.line = [] := by decide

theorem witness_RegisterImages : State.reset.result.busy = false := by decide

/-- The invariant holds where a request is presented: it has states, and steps answer next from them. -/
theorem witness_requested_Inv : requested.Inv :=
  ⟨by decide, by decide, by decide, trivial, by decide, by decide⟩

/-- The invariant holds in the middle of an operation: a query parse that waits in its body. -/
theorem witness_waiting_Inv : bodyWaiting.Inv :=
  ⟨by decide, by decide, by decide, by
    show _ ∧ _
    decide, by decide, by decide⟩

theorem witness_EveryStepKeepsTheInvariant :
    requested.Inv ∧ (view (step requested) fun _ => true) = some true := ⟨witness_requested_Inv, by decide⟩

theorem witness_NoStepStops : bodyWaiting.Inv := witness_waiting_Inv

/-- The block is busy after each of the first five bytes of its frame. -/
theorem sending_stays_busy (m : Nat) (hm : m < 6) :
    ∃ t : State, linkSteps m offeringQreq = .next t ∧ t.result.busy = true := by
  have hbusy : ∀ k : Fin 6, view (linkSteps k offeringQreq) (fun t => t.result.busy) = some true := by decide
  have hk := hbusy ⟨m, hm⟩
  cases ht : linkSteps m offeringQreq with
  | next t => exact ⟨t, rfl, by simpa [ht, view] using hk⟩
  | fault r => simp [ht, view] at hk
  | refused r => simp [ht, view] at hk

/-- A send at its first byte and at its last, a head and a body with an answer queued, and a run of link steps. -/
theorem witness_BusyStepTakesOneLinkStep :
    (∀ s ∈ [offeringQreq, nextOf (linkSteps 5 offeringQreq)],
      s.resumesNext ∧ s.seq.cont = .send none ∧ s.result.frameLen.toNat ≤ 259 ∧
      s.frameBytes[s.seq.idx.toNat]? = some 0x83 ∧ s.link.txAnswers.head? = some .ok) ∧
    ((grantRx [.byte 0x70] (parsing .query)).resumesNext ∧ (parsing .query).seq.cont = .head .query ∧
      (parsing .query).seq.idx.toNat < 3 ∧
      (grantRx [.byte 0x70] (parsing .query)).link.rxStream = .byte 0x70 :: []) ∧
    ((grantRx [.ioerr] bodyWaiting).resumesNext ∧ bodyWaiting.seq.cont = .body ∧
      bodyWaiting.seq.idx.toNat < 3 + bodyWaiting.seq.nexp.toNat ∧
      (grantRx [.ioerr] bodyWaiting).link.rxStream = .ioerr :: []) ∧
    (∀ m, m < 6 → ∃ t : State, linkSteps m offeringQreq = .next t ∧ t.result.busy = true) :=
  ⟨by decide, by decide, by decide, sending_stays_busy⟩

/-- A request for SEND at an idle block with six bytes in FRAME. -/
def sendRequested : State := hostPresent 0x03 0 [] (withLength 6 (oks 6))

theorem witness_ResetAbandonsARunningOperation :
    sendRequested.acceptsNext ∧ sendRequested.port.req0.toNat % 8 = 3 ∧ sendRequested.result.frameLen.toNat ≤ 259 ∧
    5 < sendRequested.result.frameLen.toNat ∧ sendRequested.link.txAnswers = List.replicate 5 .ok ++ oks 1 ∧
    (hostPresent 0x04 0 [] (stream [0x70, 0x00, 0x01] [])).acceptsNext ∧
    (hostPresent 0x04 0 [] (stream [0x70, 0x00, 0x01] [])).port.req0.toNat % 8 = 4 ∧
    [(0x70 : Byte), 0x00].length < 3 ∧
    (hostPresent 0x04 0 [] (stream [0x70, 0x00, 0x01] [])).link.rxStream =
      [(0x70 : Byte), 0x00].map RxAnswer.byte ++ bytes [0x01] := by decide

end Sys2Proof.Tests
end

/-! Reset (10_state R48, 70_reset R280, R282): what the step does while the reset input is asserted, and what the
host then reads. -/

namespace Sys2Proof.Machine

/-- Reset comes before everything else a step can be (60_exceptions R259). -/
theorem step_of_resetIn {s : State} (h : s.resetIn = true) : step s = .next (resetBlock s) :=
  if_pos h

/-! ## Host reads between operations (10_state R35) -/

section
variable {s : State}

theorem specifiedRead_rn0_of_not_busy (h : s.result.busy = false) : specifiedRead .rn0 s = some (rn0 s.result) := by
  simp [specifiedRead, h]

theorem specifiedRead_rn1_of_not_busy (h : s.result.busy = false) : specifiedRead .rn1 s = some (rn1 s.result) := by
  simp [specifiedRead, h]

theorem specifiedRead_rn2_of_not_busy (h : s.result.busy = false) : specifiedRead .rn2 s = some (rn2 s.result) := by
  simp [specifiedRead, h]

theorem specifiedRead_rn3_of_not_busy (h : s.result.busy = false) : specifiedRead .rn3 s = some (rn3 s.result) := by
  simp [specifiedRead, h]

theorem specifiedRead_rn4_of_not_busy (h : s.result.busy = false) : specifiedRead .rn4 s = some (rn4 s.result) := by
  simp [specifiedRead, h]

end

/-! ## The reset values -/

/-- The block is idle after a reset step, whatever operation it abandons. -/
theorem resetBlock_not_busy (s : State) : (resetBlock s).result.busy = false := rfl

/-- STATUS_CODE = None is code 7 in bits 7 to 5 (10_state R37); every other bit of RN0 is 0. -/
theorem rn0_reset : rn0 State.reset.result = 0x000000E0 := by decide

theorem rn1_reset : rn1 State.reset.result = 0 := by decide

theorem rn2_reset : rn2 State.reset.result = 0 := by decide

theorem rn3_reset : rn3 State.reset.result = 0 := by decide

theorem rn4_reset : rn4 State.reset.result = 0 := by decide

/-- Settles O50: the step is `resetBlock`, whose result record is that of `State.reset`, and the host reads the images
of that record because the block is idle. -/
theorem resetGivesTheResetValues : Obligations.ResetGivesTheResetValues := by
  intro s hreset
  have hidle := resetBlock_not_busy s
  refine ⟨resetBlock s, step_of_resetIn hreset, resetBlock_result s, ?phase, resetBlock_link s, resetBlock_port s,
    ?rn0, ?rn1, ?rn2, ?rn3, ?rn4⟩
  case phase => rw [resetBlock_seq, State.reset]
  case rn0 => rw [specifiedRead_rn0_of_not_busy hidle, resetBlock_result, rn0_reset]
  case rn1 => rw [specifiedRead_rn1_of_not_busy hidle, resetBlock_result, rn1_reset]
  case rn2 => rw [specifiedRead_rn2_of_not_busy hidle, resetBlock_result, rn2_reset]
  case rn3 => rw [specifiedRead_rn3_of_not_busy hidle, resetBlock_result, rn3_reset]
  case rn4 => rw [specifiedRead_rn4_of_not_busy hidle, resetBlock_result, rn4_reset]

end Sys2Proof.Machine

/-! The request decoder by arithmetic on the words (30_encoding R112 to R115): each bit field as a quotient and a
remainder, the operand bytes as a prefix of DATA, and the instruction of each value of OP. -/

namespace Sys2Proof

open Machine

/-! ## Fields of the request words (R112) -/

theorem extractLsb'_eq_ofNat_div (w : HostWord) (lo len : Nat) :
    w.extractLsb' lo len = BitVec.ofNat len (w.toNat / 2 ^ lo) := by
  rw [BitVec.extractLsb', Nat.shiftRight_eq_div_pow]

/-- OP is the remainder of REQ0 by 8; REQ0[7:3] has no part in it (R115). -/
theorem reqOp_eq_ofNat_mod (req0 : HostWord) : reqOp req0 = BitVec.ofNat 3 (req0.toNat % 8) := by
  apply BitVec.eq_of_toNat_eq
  simp [reqOp]

theorem reqFunc_eq_ofNat_div (req0 : HostWord) : reqFunc req0 = BitVec.ofNat 8 (req0.toNat / 2 ^ 8) :=
  extractLsb'_eq_ofNat_div req0 8 8

theorem reqD1_eq_ofNat_div (req0 : HostWord) : reqD1 req0 = BitVec.ofNat 8 (req0.toNat / 2 ^ 16) :=
  extractLsb'_eq_ofNat_div req0 16 8

theorem reqD2_eq_ofNat_div (req0 : HostWord) : reqD2 req0 = BitVec.ofNat 8 (req0.toNat / 2 ^ 24) :=
  extractLsb'_eq_ofNat_div req0 24 8

/-- DLEN is the remainder of REQ1 by 512; REQ1[31:9] has no part in it (R115). -/
theorem reqDlen_eq_ofNat_mod (req1 : HostWord) : reqDlen req1 = BitVec.ofNat 9 (req1.toNat % 512) := by
  apply BitVec.eq_of_toNat_eq
  simp [reqDlen]

/-! ## The operand bytes (10_state R34) -/

theorem latchedLength_ofNat_of_lt {n : Nat} (h : n < 512) : latchedLength (BitVec.ofNat 9 n) = min n 259 := by
  rw [latchedLength, BitVec.toNat_ofNat, Nat.mod_eq_of_lt h, Config.dataMax]

/-- From a DATA of full size the decoder takes the bytes that stand there: it fills nothing in (log 19). -/
theorem takeBytes_latchedLength (dlen : Count) {data : List Byte} (h : data.length = 259) :
    takeBytes (latchedLength dlen) data = data.take (latchedLength dlen) :=
  takeBytes_of_le (h ▸ latchedLength_le dlen)

/-! ## The operation of each value of OP (R113), whatever the other fields hold (R114) -/

section
variable (f d1 d2 : Byte) (dlen : Count) (data : List Byte)

@[simp] theorem decodeFields_zero :
    decodeFields 0#3 f d1 d2 dlen data = .chk dlen (takeBytes (latchedLength dlen) data) := rfl

@[simp] theorem decodeFields_one : decodeFields 1#3 f d1 d2 dlen data = .bq f d1 d2 := rfl

@[simp] theorem decodeFields_two :
    decodeFields 2#3 f d1 d2 dlen data = .bc f dlen (takeBytes (latchedLength dlen) data) := rfl

@[simp] theorem decodeFields_three : decodeFields 3#3 f d1 d2 dlen data = .send := rfl

@[simp] theorem decodeFields_four : decodeFields 4#3 f d1 d2 dlen data = .pq := rfl

@[simp] theorem decodeFields_five : decodeFields 5#3 f d1 d2 dlen data = .pc := rfl

@[simp] theorem decodeFields_six : decodeFields 6#3 f d1 d2 dlen data = .xq f d1 d2 := rfl

@[simp] theorem decodeFields_seven :
    decodeFields 7#3 f d1 d2 dlen data = .xc f dlen (takeBytes (latchedLength dlen) data) := rfl

end

/-- The decoder refuses no request (R115), and reads of the two words what these quotients and remainders hold. -/
theorem decode_request_eq (req0 req1 : HostWord) (data : List Byte) :
    decode (.request req0 req1 data) = .ok (decodeFields (BitVec.ofNat 3 (req0.toNat % 8))
      (BitVec.ofNat 8 (req0.toNat / 2 ^ 8)) (BitVec.ofNat 8 (req0.toNat / 2 ^ 16))
      (BitVec.ofNat 8 (req0.toNat / 2 ^ 24)) (BitVec.ofNat 9 (req1.toNat % 512)) data) := by
  rw [decode, decodeRequest, reqOp_eq_ofNat_mod, reqFunc_eq_ofNat_div, reqD1_eq_ofNat_div, reqD2_eq_ofNat_div,
    reqDlen_eq_ofNat_mod]

/-- Settles O3: the decoder's fields are the arithmetic ones, its operand bytes are a prefix of DATA, and REQ0 mod 8
has eight values, each with the equation of its operation. -/
theorem requestWordsSelectTheOperation : Obligations.RequestWordsSelectTheOperation := by
  intro req0 req1 data hlen func d1 d2 n dlen bytes
  have hn : n < 512 := Nat.mod_lt _ (by decide)
  have hbytes : takeBytes (latchedLength dlen) data = bytes := by
    rw [takeBytes_latchedLength dlen hlen, latchedLength_ofNat_of_lt hn]
  have hop : req0.toNat % 8 < 8 := Nat.mod_lt _ (by decide)
  rw [decode_request_eq, ← hbytes]
  generalize req0.toNat % 8 = op at hop ⊢
  match op, hop with
  | 0, _ => exact congrArg Except.ok (decodeFields_zero func d1 d2 dlen data)
  | 1, _ => exact congrArg Except.ok (decodeFields_one func d1 d2 dlen data)
  | 2, _ => exact congrArg Except.ok (decodeFields_two func d1 d2 dlen data)
  | 3, _ => exact congrArg Except.ok (decodeFields_three func d1 d2 dlen data)
  | 4, _ => exact congrArg Except.ok (decodeFields_four func d1 d2 dlen data)
  | 5, _ => exact congrArg Except.ok (decodeFields_five func d1 d2 dlen data)
  | 6, _ => exact congrArg Except.ok (decodeFields_six func d1 d2 dlen data)
  | 7, _ => exact congrArg Except.ok (decodeFields_seven func d1 d2 dlen data)

end Sys2Proof

/-! The checksum as a function on byte lists (40_checksum R140, R141, R145): its recursion, its sum law, and the
accumulator that computes it. -/

namespace Sys2Proof.Machine

/-! ## The sum law (R140, R141) -/

@[simp] theorem checksum_nil : checksum [] = 0 := rfl

@[simp] theorem checksum_cons (v : Byte) (s : List Byte) : checksum (v :: s) = v + checksum s := by
  simp [checksum, BitVec.ofNat_add]

/-- Bytes add up in 8 bits, where R141 writes the sum modulo 256. -/
@[simp] theorem checksum_append (a b : List Byte) : checksum (a ++ b) = checksum a + checksum b := by
  induction a with
  | nil => simp
  | cons v a ih => rw [List.cons_append, checksum_cons, checksum_cons, ih, BitVec.add_assoc]

theorem checksum_perm {a b : List Byte} (h : a.Perm b) : checksum a = checksum b :=
  congrArg (BitVec.ofNat 8) (h.map BitVec.toNat).sum_eq

/-! ## The accumulator (R145) -/

/-- An accumulator that starts at `acc` ends at `acc` plus the checksum of what it ran over. -/
theorem foldl_add_eq_add_checksum (acc : Byte) (s : List Byte) :
    s.foldl (fun acc v => acc + v) acc = acc + checksum s := by
  induction s generalizing acc with
  | nil => simp
  | cons v s ih => rw [List.foldl_cons, ih, checksum_cons, BitVec.add_assoc]

theorem accumulate_eq_checksum (s : List Byte) : accumulate s = checksum s := by
  rw [accumulate, foldl_add_eq_add_checksum, zero_add]

/-- Settles O6: the recursion is `checksum_cons`, whose sum in 8 bits is the sum modulo 256. -/
theorem checksumIsTheSumModulo256 : Obligations.ChecksumIsTheSumModulo256 := by
  refine ⟨checksum_nil, fun v s => ?_⟩
  rw [checksum_cons, BitVec.toNat_add]

/-- Settles O5: the concatenation law in 8 bits, its case of one byte behind, the sum of a permuted list, and the
accumulator generalised over its starting value. -/
theorem checksumOfConcatenation : Obligations.ChecksumOfConcatenation := by
  refine ⟨fun a b => ?concatenation, fun s v => ?append, fun _ _ => checksum_perm, accumulate_eq_checksum⟩
  case concatenation => rw [checksum_append, BitVec.toNat_add]
  case append => rw [checksum_append, BitVec.toNat_add, checksum_cons, checksum_nil, add_zero]

end Sys2Proof.Machine

/-! CHECKSUM, the operation (40_checksum R144): the request that selects it, the data its length check lets through,
and its two outcomes. -/

namespace Sys2Proof.Machine

/-! ## Reading back the words the encoder writes (30_encoding R112) -/

/-- OP stands alone in the lowest three bits of the REQ0 the encoder writes. -/
@[simp] theorem reqOp_packReq0 (op : BitVec 3) (f d1 d2 : Byte) : reqOp (packReq0 op f d1 d2) = op := by
  ext i hi
  have h8 : i < 8 := by omega
  have h16 : i < 16 := by omega
  have h24 : i < 24 := by omega
  have h32 : i < 32 := by omega
  simp only [reqOp, packReq0, BitVec.getElem_extractLsb', BitVec.getLsbD_or, getLsbD_fieldAt]
  simp [h8, h16, h24, h32, BitVec.getLsbD_eq_getElem hi]

/-- REQ1 holds nothing but DLEN, and all of it. -/
@[simp] theorem reqDlen_packReq1 (dlen : Count) : reqDlen (packReq1 dlen) = dlen := by
  ext i hi
  have h32 : i < 32 := by omega
  simp only [reqDlen, packReq1, BitVec.getElem_extractLsb', getLsbD_fieldAt]
  simp [h32, BitVec.getLsbD_eq_getElem hi]

/-! ## The operand bytes (10_state R34) -/

/-- A list that has the length asked for is taken whole. -/
theorem takeBytes_of_length_eq {n : Nat} {data : List Byte} (h : data.length = n) : takeBytes n data = data := by
  rw [takeBytes_of_le h.ge, List.take_of_length_le h.le]

theorem latchedLength_of_le {dlen : Count} (h : dlen.toNat ≤ 259) : latchedLength dlen = dlen.toNat :=
  Nat.min_eq_left h

/-- Up to DMAX the operation works on all the bytes acceptance latched. -/
theorem operandData_of_le {dlen : Count} {data : List Byte} (hlen : data.length = latchedLength dlen)
    (hle : dlen.toNat ≤ 259) : operandData dlen data = data :=
  takeBytes_of_length_eq (hlen.trans (latchedLength_of_le hle))

theorem length_of_wf_chk {dlen : Count} {data : List Byte} (h : (Instr.chk dlen data).wf = true) :
    data.length = latchedLength dlen := by
  simpa [Instr.wf] using h

/-! ## The two outcomes (R144) -/

section
variable (dlen : Count) (data : List Byte) (s : State)

theorem exec_chk : exec (.chk dlen data) s = execChk dlen data s := rfl

variable {dlen}

theorem execChk_of_le (h : dlen.toNat ≤ 259) : execChk dlen data s =
    .next (finish .ok (setCalcCk (checksum (operandData dlen data)) (runAcc (operandData dlen data) s))) :=
  if_neg h.not_gt

theorem execChk_of_gt (h : 259 < dlen.toNat) : execChk dlen data s = .next (finish .length s) :=
  if_pos h

end

/-- FUNC, D1 and D2 are fields CHECKSUM does not read (30_encoding R114). -/
theorem decode_chk_request {dlen : Count} {data : List Byte} (hlen : data.length = latchedLength dlen)
    (func d1 d2 : Byte) :
    decode (.request (packReq0 0 func d1 d2) (packReq1 dlen) data) = .ok (.chk dlen data) := by
  rw [decode, decodeRequest, reqOp_packReq0, reqDlen_packReq1, BitVec.ofNat_eq_ofNat, decodeFields_zero,
    takeBytes_of_length_eq hlen]

/-- Settles O10: well-formed data is what DLEN latches, so the decoder gives it back and up to 259 bytes the operation
sums exactly it; the accumulator ends at the same checksum. -/
theorem chkWritesTheChecksumOrLength : Obligations.ChkWritesTheChecksumOrLength := by
  intro dlen data s hwf
  have hlen := length_of_wf_chk hwf
  refine ⟨decode_chk_request hlen, fun hle => ?ok, fun hgt => ?length⟩
  case ok =>
    rw [exec_chk, execChk_of_le data s hle, operandData_of_le hlen hle, finish, setCalcCk, runAcc,
      accumulate_eq_checksum]
  case length => rw [exec_chk, execChk_of_gt data s hgt, finish]

end Sys2Proof.Machine

/-! What keeps the frame in FRAME (10_state R41, 41_framer R162): every piece of the machine that comes after a build
leaves FRAME and FRAME_LEN alone, so a frame once built stands until the next build. Then the validity of built frames
(40_checksum R143). -/

namespace Sys2Proof.Machine

/-! ## FRAME and FRAME_LEN unchanged -/

/-- FRAME and FRAME_LEN are the same in both states. -/
structure SameFrame (s t : State) : Prop where
  frame : t.bufs.frame = s.bufs.frame
  frameLen : t.result.frameLen = s.result.frameLen

namespace SameFrame

theorem refl (s : State) : SameFrame s s := ⟨rfl, rfl⟩

theorem trans {s t u : State} (h : SameFrame s t) (h' : SameFrame t u) : SameFrame s u :=
  ⟨h'.frame.trans h.frame, h'.frameLen.trans h.frameLen⟩

/-- A piece that starts from `s'` keeps the frame of any state that differs from `s'` elsewhere only. -/
theorem of_start {s s' t : State} (h : SameFrame s' t) (hframe : s'.bufs.frame = s.bufs.frame)
    (hlen : s'.result.frameLen = s.result.frameLen) : SameFrame s t :=
  trans ⟨hframe, hlen⟩ h

theorem frameBytes_eq {s t : State} (h : SameFrame s t) : t.frameBytes = s.frameBytes := by
  rw [State.frameBytes, h.frame, h.frameLen]

end SameFrame

/-- Wherever this piece of the machine answers a next state, it has left FRAME and FRAME_LEN alone. -/
def KeepsFrame (f : State → Out) : Prop :=
  ∀ ⦃s t : State⦄, f s = .next t → SameFrame s t

theorem setBuf_sameFrame {b : Buffer} (h : b ≠ .frame) (s : State) (m : Memory) : SameFrame s (s.setBuf b m) :=
  ⟨setBuf_buf_other s m h.symm, by rw [setBuf_result]⟩

theorem finish_sameFrame (k : ResultKind) (s : State) : SameFrame s (finish k s) := ⟨rfl, rfl⟩

theorem setCalcCk_sameFrame (v : Byte) (s : State) : SameFrame s (setCalcCk v s) := ⟨rfl, rfl⟩

theorem afterSend_sameFrame (p : Option AnswerKind) (s : State) : SameFrame s (afterSend p s) := by
  cases p with
  | none => exact finish_sameFrame .ok s
  | some k => exact ⟨rfl, rfl⟩

/-! ## The send stage -/

theorem sendStage_keepsFrame (p : Option AnswerKind) : KeepsFrame (sendStage p) := by
  intro s t h
  obtain ⟨-, h⟩ := withRead_next h
  split at h
  · cases h
    exact (afterSend_sameFrame p _).of_start rfl rfl
  · cases h
    exact ⟨rfl, rfl⟩

theorem txStep_keepsFrame (p : Option AnswerKind) (a : TxAnswer) (rest : List TxAnswer) :
    KeepsFrame (txStep p a rest) := by
  intro s t h
  obtain ⟨-, h⟩ := withRead_next h
  cases a with
  | ioerr =>
    cases h
    exact ⟨rfl, rfl⟩
  | ok =>
    dsimp only at h
    split at h
    · cases h
      exact ⟨rfl, rfl⟩
    · cases h
      exact (afterSend_sameFrame p _).of_start rfl rfl

/-! ## The parse stage: it writes RXBUF and PAYLOAD, never FRAME -/

theorem compareChecksum_sameFrame {covered : List Byte} {c : Byte} {s t : State} {pass : State → Out}
    (hpass : KeepsFrame pass) (h : compareChecksum covered c s pass = .next t) : SameFrame s t := by
  rcases compareChecksum_next h with ⟨-, h⟩ | ⟨-, rfl⟩
  · exact (hpass h).of_start rfl rfl
  · exact ⟨rfl, rfl⟩

theorem concludeStatus_keepsFrame (k : AnswerKind) (st : Byte) : KeepsFrame (concludeStatus k st) := by
  intro s t h
  rcases concludeStatus_next h with ⟨-, rfl⟩ | ⟨-, rfl⟩ <;> exact ⟨rfl, rfl⟩

theorem afterBody_keepsFrame : KeepsFrame afterBody := by
  intro s t h
  obtain ⟨-, h⟩ := withRead_next h
  refine compareChecksum_sameFrame (fun s₁ t₁ h₁ => ?_) h
  obtain ⟨-, h₁⟩ := withWrite_next h₁
  cases h₁
  exact (setBuf_sameFrame (b := .payload) (by decide) s₁ _).trans ⟨rfl, rfl⟩

theorem afterHead_keepsFrame (k : AnswerKind) : KeepsFrame (afterHead k) := by
  intro s t h
  obtain ⟨-, h⟩ := withRead_next h
  dsimp only at h
  split at h
  · cases k with
    | control => exact (compareChecksum_sameFrame (concludeStatus_keepsFrame _ _) h).of_start rfl rfl
    | query =>
      dsimp only at h
      split at h
      · split at h
        · exact (afterBody_keepsFrame h).of_start rfl rfl
        · cases h
          exact ⟨rfl, rfl⟩
      · exact (compareChecksum_sameFrame (concludeStatus_keepsFrame _ _) h).of_start rfl rfl
  · cases h
    exact ⟨rfl, rfl⟩

theorem rxStep_sameFrame {upto : Nat} {a : RxAnswer} {rest : List RxAnswer} {s t : State} {done : State → Out}
    (hdone : KeepsFrame done) (h : rxStep upto a rest s done = .next t) : SameFrame s t := by
  cases a with
  | ioerr =>
    cases h
    exact ⟨rfl, rfl⟩
  | byte v =>
    dsimp only [rxStep] at h
    obtain ⟨-, h⟩ := withWrite_next h
    split at h
    · cases h
      exact ⟨rfl, rfl⟩
    · exact (hdone h).of_start rfl rfl

/-! ## Link steps -/

theorem linkStep_keepsFrame : KeepsFrame linkStep := by
  intro s t h
  rcases linkStep_next h with rfl | ⟨p, a, rest, -, -, h⟩ | ⟨k, _, _, -, -, h⟩ | ⟨_, _, -, -, h⟩
  · exact .refl t
  · exact txStep_keepsFrame p a rest h
  · exact rxStep_sameFrame (afterHead_keepsFrame k) h
  · exact rxStep_sameFrame afterBody_keepsFrame h

theorem linkSteps_keepsFrame (n : Nat) : KeepsFrame (linkSteps n) := by
  induction n with
  | zero =>
    intro s t h
    cases h
    exact .refl s
  | succ n ih =>
    intro s t h
    cases hs : linkStep s with
    | next u =>
      rw [linkSteps_succ_of_next hs] at h
      exact (linkStep_keepsFrame hs).trans (ih h)
    | fault r =>
      rw [linkSteps, hs] at h
      cases h
    | refused r =>
      rw [linkSteps, hs] at h
      cases h

/-! ## The frame a build leaves (41_framer R160, R161) -/

/-- The build stage has put exactly `fr` in FRAME[0..FRAME_LEN), and what follows it keeps it there. -/
theorem frameBytes_of_buildStage {fr : List Byte} {s t : State} {next : State → Out} (hle : fr.length ≤ 259)
    (hnext : KeepsFrame next) (h : buildStage fr s next = .next t) : t.frameBytes = fr := by
  rw [buildStage_of_le hle] at h
  rw [(hnext h).frameBytes_eq]
  have hlen : (BitVec.ofNat 9 fr.length).toNat = fr.length := by
    rw [BitVec.toNat_ofNat, Nat.mod_eq_of_lt (by omega)]
  change (s.bufs.frame.writeBytes 0 fr).readBytes 0 (BitVec.ofNat 9 fr.length).toNat = fr
  rw [hlen, Memory.readBytes_writeBytes_same]

/-- After a build BUILD_QUERY and BUILD_CONTROL write CALC_CK and end. -/
theorem endBuild_keepsFrame (v : Byte) : KeepsFrame (fun s => .next (finish .ok (setCalcCk v s))) := by
  intro s t h
  cases h
  exact (setCalcCk_sameFrame v s).trans (finish_sameFrame .ok _)

section
variable {f d1 d2 : Byte} {dlen : Count} {data : List Byte} {s t : State}

theorem length_controlFrame_operandData_le (h : dlen.toNat ≤ 254) :
    (controlFrame f (operandData dlen data)).length ≤ 259 := by
  rw [length_controlFrame, length_operandData]
  omega

theorem frameBytes_of_exec_bq (h : exec (.bq f d1 d2) s = .next t) : t.frameBytes = queryFrame f d1 d2 :=
  frameBytes_of_buildStage (by simp) (endBuild_keepsFrame _) h

theorem frameBytes_of_exec_xq (h : exec (.xq f d1 d2) s = .next t) : t.frameBytes = queryFrame f d1 d2 :=
  frameBytes_of_buildStage (by simp) (sendStage_keepsFrame _) h

theorem execBc_of_le (h : dlen.toNat ≤ 254) : execBc f dlen data s =
    buildStage (controlFrame f (operandData dlen data)) s fun s1 =>
      .next (finish .ok (setCalcCk ((controlFrame f (operandData dlen data)).getLastD 0) s1)) :=
  if_neg h.not_gt

theorem execXc_of_le (h : dlen.toNat ≤ 254) : execXc f dlen data s =
    buildStage (controlFrame f (operandData dlen data)) s (sendStage (some .control)) :=
  if_neg h.not_gt

theorem frameBytes_of_exec_bc (hle : dlen.toNat ≤ 254) (h : exec (.bc f dlen data) s = .next t) :
    t.frameBytes = controlFrame f (operandData dlen data) :=
  frameBytes_of_buildStage (length_controlFrame_operandData_le hle) (endBuild_keepsFrame _)
    ((execBc_of_le hle).symm.trans h)

theorem frameBytes_of_exec_xc (hle : dlen.toNat ≤ 254) (h : exec (.xc f dlen data) s = .next t) :
    t.frameBytes = controlFrame f (operandData dlen data) :=
  frameBytes_of_buildStage (length_controlFrame_operandData_le hle) (sendStage_keepsFrame _)
    ((execXc_of_le hle).symm.trans h)

end

/-! ## Built frames are valid (40_checksum R143) -/

/-- What ends in its own checksum passes the validator (R142). -/
theorem validFrame_withChecksum (s : List Byte) : validFrame (withChecksum s) = true := by
  simp [validFrame, withChecksum]

/-- A frame that ends in its own checksum is valid where it stands, and link steps leave it standing. -/
theorem validFrame_frameBytes_of_linkSteps {s : List Byte} {t u : State} {n : Nat}
    (ht : t.frameBytes = withChecksum s) (hu : linkSteps n t = .next u) :
    validFrame t.frameBytes = true ∧ validFrame u.frameBytes = true := by
  rw [(linkSteps_keepsFrame n hu).frameBytes_eq, ht]
  exact ⟨validFrame_withChecksum s, validFrame_withChecksum s⟩

/-- Settles O8: each of the four operations leaves in FRAME the frame its build stage wrote, which ends in its own
checksum, and no link step writes FRAME or FRAME_LEN. -/
theorem builtFramesValidate : Obligations.BuiltFramesValidate := by
  refine ⟨fun f d1 d2 s t u n hexec hlink => ?query, fun f dlen data s t u n hle hexec hlink => ?control⟩
  case query =>
    exact validFrame_frameBytes_of_linkSteps (hexec.elim frameBytes_of_exec_bq frameBytes_of_exec_xq) hlink
  case control =>
    exact validFrame_frameBytes_of_linkSteps
      (hexec.elim (frameBytes_of_exec_bc hle) (frameBytes_of_exec_xc hle)) hlink

end Sys2Proof.Machine

/-! The request framer, BUILD_QUERY and BUILD_CONTROL (41_framer R160, R161): the requests that select them, the state
a completed build leaves, and the length BUILD_CONTROL refuses. -/

namespace Sys2Proof.Machine

/-! ## Reading back the operand bytes of REQ0 (30_encoding R112) -/

/-- A field is read back where it stands. -/
theorem extractLsb'_fieldAt_same {w lo : Nat} (v : BitVec w) (h : lo + w ≤ 32) :
    (fieldAt lo v).extractLsb' lo w = v := by
  ext i hi
  have h32 : lo + i < 32 := by omega
  rw [BitVec.getElem_extractLsb', getLsbD_fieldAt]
  simp [h32, BitVec.getLsbD_eq_getElem hi]

/-- Below a field the word it stands in reads 0. -/
theorem extractLsb'_fieldAt_below {w lo start len : Nat} (v : BitVec w) (h : start + len ≤ lo) :
    (fieldAt lo v).extractLsb' start len = 0 := by
  ext i hi
  have hlo : start + i < lo := by omega
  simp [getLsbD_fieldAt, hlo]

/-- Above a field the word it stands in reads 0. -/
theorem extractLsb'_fieldAt_above {w lo start len : Nat} (v : BitVec w) (h : lo + w ≤ start) :
    (fieldAt lo v).extractLsb' start len = 0 := by
  ext i hi
  have hw : w ≤ start + i - lo := by omega
  simp [getLsbD_fieldAt, BitVec.getLsbD_of_ge v _ hw]

section
variable (op : BitVec 3) (f d1 d2 : Byte)

@[simp] theorem reqFunc_packReq0 : reqFunc (packReq0 op f d1 d2) = f := by
  simp [reqFunc, packReq0, BitVec.extractLsb'_or, extractLsb'_fieldAt_same, extractLsb'_fieldAt_above,
    extractLsb'_fieldAt_below]

@[simp] theorem reqD1_packReq0 : reqD1 (packReq0 op f d1 d2) = d1 := by
  simp [reqD1, packReq0, BitVec.extractLsb'_or, extractLsb'_fieldAt_same, extractLsb'_fieldAt_above,
    extractLsb'_fieldAt_below]

@[simp] theorem reqD2_packReq0 : reqD2 (packReq0 op f d1 d2) = d2 := by
  simp [reqD2, packReq0, BitVec.extractLsb'_or, extractLsb'_fieldAt_same, extractLsb'_fieldAt_above]

end

/-! ## The requests (30_encoding R113, R114) -/

/-- DLEN and DATA are fields BUILD_QUERY does not read. -/
theorem decode_bq_request (f d1 d2 : Byte) (req1 : HostWord) (data : List Byte) :
    decode (.request (packReq0 1 f d1 d2) req1 data) = .ok (.bq f d1 d2) := by
  rw [decode, decodeRequest, reqOp_packReq0, reqFunc_packReq0, reqD1_packReq0, reqD2_packReq0,
    BitVec.ofNat_eq_ofNat, decodeFields_one]

/-- D1 and D2 are fields BUILD_CONTROL does not read. -/
theorem decode_bc_request {dlen : Count} {data : List Byte} (hlen : data.length = latchedLength dlen)
    (f d1 d2 : Byte) :
    decode (.request (packReq0 2 f d1 d2) (packReq1 dlen) data) = .ok (.bc f dlen data) := by
  rw [decode, decodeRequest, reqOp_packReq0, reqFunc_packReq0, reqDlen_packReq1, BitVec.ofNat_eq_ofNat,
    decodeFields_two, takeBytes_of_length_eq hlen]

theorem length_of_wf_bc {f : Byte} {dlen : Count} {data : List Byte} (h : (Instr.bc f dlen data).wf = true) :
    data.length = latchedLength dlen := by
  simpa [Instr.wf] using h

/-! ## A completed build -/

theorem Memory.read_writeBytes_of_ge (m : Memory) {i a : Nat} {vs : List Byte} (h : i + vs.length ≤ a) :
    (m.writeBytes i vs).read a = m.read a := by
  have hout : vs.length ≤ a - i := by omega
  simp [Memory.read_writeBytes, List.getElem?_eq_none hout]

@[simp] theorem getLastD_withChecksum (body : List Byte) (v : Byte) :
    (withChecksum body).getLastD v = checksum body := by
  simp [withChecksum]

/-- How a build that completes leaves the state: FRAME holds `body` and its checksum, FRAME_LEN and CALC_CK say so, the
outcome is OK, and beyond them only the sequencing state has moved. -/
structure BuildCompletes (body : List Byte) (s t : State) : Prop where
  frameBytes : t.frameBytes = withChecksum body
  read_above : ∀ j, body.length + 1 ≤ j → t.bufs.frame.read j = s.bufs.frame.read j
  state_eq : t = { s with
    bufs := { s.bufs with frame := t.bufs.frame }
    result := { s.result with
      frameLen := BitVec.ofNat 9 (body.length + 1), calcCk := checksum body,
      resultKind := .ok, resultValid := true, busy := false }
    seq := { s.seq with acc := t.seq.acc, phase := .idle, cont := .none } }

/-- The body of BUILD_QUERY, and of BUILD_CONTROL once its length check has passed. -/
theorem buildStage_completes {body : List Byte} (hle : body.length + 1 ≤ 259) (s : State) :
    ∃ t, buildStage (withChecksum body) s
        (fun s1 => .next (finish .ok (setCalcCk ((withChecksum body).getLastD 0) s1))) = .next t ∧
      BuildCompletes body s t := by
  have hfits : (withChecksum body).length ≤ 259 := (length_withChecksum body).trans_le hle
  have hrun := buildStage_of_le (s := s)
    (next := fun s1 => .next (finish .ok (setCalcCk ((withChecksum body).getLastD 0) s1))) hfits
  refine ⟨_, hrun, frameBytes_of_buildStage hfits (endBuild_keepsFrame _) hrun, fun j hj => ?above, ?state⟩
  case above =>
    exact Memory.read_writeBytes_of_ge _ (by rwa [Nat.zero_add, length_withChecksum])
  case state =>
    rw [getLastD_withChecksum, length_withChecksum]
    rfl

/-! ## The two operations -/

theorem exec_bq_completes (f d1 d2 : Byte) (s : State) :
    ∃ t, exec (.bq f d1 d2) s = .next t ∧ BuildCompletes [0x83, 0x00, f, d1, d2] s t :=
  buildStage_completes (body := [0x83, 0x00, f, d1, d2]) (by simp) s

theorem checksum_query (f d1 d2 : Byte) : checksum [0x83, 0x00, f, d1, d2] = 0x83 + f + d1 + d2 := by
  simp [BitVec.add_assoc]

/-- What the checksum of a control request covers: head, FUNC, the length byte, the data (R161). -/
def controlBody (f : Byte) (dlen : Count) (data : List Byte) : List Byte :=
  [0x8C, 0x00, f, BitVec.ofNat 8 (dlen.toNat + 1)] ++ data

section
variable {f : Byte} {dlen : Count} {data : List Byte}

theorem exec_bc (f : Byte) (dlen : Count) (data : List Byte) (s : State) :
    exec (.bc f dlen data) s = execBc f dlen data s := rfl

theorem execBc_of_gt (h : 254 < dlen.toNat) (s : State) : execBc f dlen data s = refuseLength s :=
  if_pos h

theorem length_controlBody (h : data.length = dlen.toNat) : (controlBody f dlen data).length = dlen.toNat + 4 := by
  simp [controlBody, h]

/-- The framer counts the data bytes it was given, DLEN of them. -/
theorem controlFrame_eq_withChecksum (h : data.length = dlen.toNat) :
    controlFrame f data = withChecksum (controlBody f dlen data) := by
  rw [controlFrame, h, controlBody, Config.hdrControl, Config.category]

theorem exec_bc_completes (hlen : data.length = latchedLength dlen) (hle : dlen.toNat ≤ 254) (s : State) :
    ∃ t, exec (.bc f dlen data) s = .next t ∧ BuildCompletes (controlBody f dlen data) s t := by
  have hmax : dlen.toNat ≤ 259 := by omega
  have hcount : data.length = dlen.toNat := hlen.trans (latchedLength_of_le hmax)
  rw [exec_bc, execBc_of_le hle, operandData_of_le hlen hmax, controlFrame_eq_withChecksum hcount]
  exact buildStage_completes (by rw [length_controlBody hcount]; omega) s

end

/-- FRAME_LEN counts the data bytes and the five around them: the count in `Nat` is R161's LDLEN + 5. -/
theorem ofNat_toNat_add_five (dlen : Count) : BitVec.ofNat 9 (dlen.toNat + 5) = dlen + 5 := by
  rw [BitVec.ofNat_add, BitVec.ofNat_toNat, BitVec.setWidth_eq, BitVec.ofNat_eq_ofNat]

/-- Settles O11: the build completes, and the sum of its five bytes is 83 + f + d1 + d2, as CATEGORY adds nothing. -/
theorem bqBuildsTheQueryFrame : Obligations.BqBuildsTheQueryFrame := by
  intro f d1 d2 s
  obtain ⟨t, hexec, hframe, habove, hstate⟩ := exec_bq_completes f d1 d2 s
  rw [withChecksum, checksum_query] at hframe
  rw [checksum_query] at hstate
  exact ⟨decode_bq_request f d1 d2, t, hexec, hframe, habove, hstate⟩

/-- Settles O12: well-formed data is LDLEN bytes long up to 254, so the length byte and FRAME_LEN count it; above 254
the operation ends before the build. -/
theorem bcBuildsTheControlFrameOrLength : Obligations.BcBuildsTheControlFrameOrLength := by
  intro f dlen data s hwf
  have hlen := length_of_wf_bc hwf
  refine ⟨decode_bc_request hlen f, fun hle => ?ok, fun hgt => ?length⟩
  case ok =>
    obtain ⟨t, hexec, hframe, habove, hstate⟩ := exec_bc_completes (f := f) hlen hle s
    have hcount : (controlBody f dlen data).length = dlen.toNat + 4 :=
      length_controlBody (hlen.trans (latchedLength_of_le (by omega)))
    rw [hcount] at habove hstate
    rw [ofNat_toNat_add_five] at hstate
    exact ⟨t, hexec, hframe, habove, hstate⟩
  case length => rw [exec_bc, execBc_of_gt hgt, refuseLength, finish, setFrameLen]

end Sys2Proof.Machine

/-! The parse stage (42_parser R190 to R197): ReadExact as one lemma, what each head and each body leads to, and the
answers that are parsed back. -/

namespace Sys2Proof.Machine

/-! ## ReadExact: the bytes a run of `RxByte` steps takes (00_scope R18, R190) -/

theorem Memory.writeBytes_append (m : Memory) (i : Nat) (a b : List Byte) :
    m.writeBytes i (a ++ b) = (m.writeBytes i a).writeBytes (i + a.length) b := by
  induction a generalizing m i with
  | nil => simp
  | cons v a ih =>
    rw [List.cons_append, Memory.writeBytes_cons, ih, Memory.writeBytes_cons, List.length_cons, Nat.add_right_comm,
      Nat.add_assoc]

@[simp] theorem received_append (a b : List Byte) : received (a ++ b) = received a ++ received b :=
  List.map_append

/-- The state after `bytes` have been received into RXBUF from IDX on, with `rest` left in the stream. -/
def takeRx (bytes : List Byte) (rest : List RxAnswer) (s : State) : State :=
  { s with
    link := { s.link with rxStream := rest, history := s.link.history ++ received bytes }
    bufs := { s.bufs with rxbuf := s.bufs.rxbuf.writeBytes s.seq.idx.toNat bytes }
    result := { s.result with rxCount := s.result.rxCount + BitVec.ofNat 9 bytes.length }
    seq := { s.seq with idx := s.seq.idx + BitVec.ofNat 9 bytes.length } }

theorem idx_takeRx_toNat {a : List Byte} {s : State} (h : s.seq.idx.toNat + a.length < 512)
    (rest : List RxAnswer) : (takeRx a rest s).seq.idx.toNat = s.seq.idx.toNat + a.length := by
  rw [takeRx, BitVec.toNat_add, BitVec.toNat_ofNat, Nat.add_mod_mod, Nat.mod_eq_of_lt h]

/-- Receiving more goes on where the bytes before it ended. -/
theorem takeRx_takeRx {a : List Byte} {s : State} (h : s.seq.idx.toNat + a.length < 512) (b : List Byte)
    (mid rest : List RxAnswer) : takeRx b rest (takeRx a mid s) = takeRx (a ++ b) rest s := by
  rw [takeRx, idx_takeRx_toNat h]
  simp [takeRx, Memory.writeBytes_append, BitVec.ofNat_add, BitVec.add_assoc]

@[simp] theorem takeRx_nil (s : State) : takeRx [] s.link.rxStream s = s := by
  simp [takeRx, received]

/-- The ReadExact in progress: the answer byte it reads up to, and what follows the last. -/
def Sequencer.reading (q : Sequencer) : Option (Nat × (State → Out)) :=
  match q.cont with
  | .head k => some (3, afterHead k)
  | .body => some (3 + q.nexp.toNat, afterBody)
  | _ => none

/-- One byte of a ReadExact is taken; then the next is awaited, or the stage goes on. -/
theorem linkStep_of_reading {s : State} {upto : Nat} {done : State → Out} {v : Byte} {rest : List RxAnswer}
    (hread : s.seq.reading = some (upto, done)) (hq : s.link.rxStream = .byte v :: rest)
    (hidx : s.seq.idx.toNat < 258) :
    linkStep s =
      if s.seq.idx.toNat + 1 < upto then .next (takeRx [v] rest s) else done (takeRx [v] rest s) := by
  have hrx : linkStep s = rxStep upto (.byte v) rest s done := by
    unfold Sequencer.reading at hread
    split at hread
    next k hcont => cases hread; exact linkStep_head hcont hq
    next hcont => cases hread; exact linkStep_body hcont hq
    next => cases hread
  rw [hrx]
  dsimp only [rxStep]
  rw [withWrite_of_le (b := .rxbuf) hidx]
  rfl

/-- Taking a byte leaves it open which ReadExact is in progress. -/
theorem reading_takeRx {s : State} {r : Option (Nat × (State → Out))} (h : s.seq.reading = r) (bytes : List Byte)
    (rest : List RxAnswer) : (takeRx bytes rest s).seq.reading = r := h

theorem linkSteps_one (s : State) : linkSteps 1 s = linkStep s := by
  cases h : linkStep s <;> simp [linkSteps, h]

/-- Bytes that do not complete a ReadExact are taken one a link step, and the next is awaited. -/
theorem linkSteps_of_reading_part {s : State} {upto : Nat} {done : State → Out} {bytes : List Byte}
    {rest : List RxAnswer} (hread : s.seq.reading = some (upto, done))
    (hq : s.link.rxStream = bytes.map RxAnswer.byte ++ rest)
    (hlen : s.seq.idx.toNat + bytes.length < upto) (hmax : upto ≤ 258) :
    linkSteps bytes.length s = .next (takeRx bytes rest s) := by
  induction bytes generalizing s with
  | nil =>
    rw [List.map_nil, List.nil_append] at hq
    rw [← hq, takeRx_nil, List.length_nil, linkSteps_zero]
  | cons v vs ih =>
    rw [List.length_cons] at hlen
    have hstep : linkStep s = .next (takeRx [v] (vs.map RxAnswer.byte ++ rest) s) :=
      (linkStep_of_reading hread hq (by omega)).trans (if_pos (by omega))
    have hidx := idx_takeRx_toNat (a := [v]) (s := s) (by rw [List.length_singleton]; omega)
      (vs.map RxAnswer.byte ++ rest)
    rw [List.length_singleton] at hidx
    rw [List.length_cons, linkSteps_succ_of_next hstep, ih (reading_takeRx hread _ _) rfl (by omega),
      takeRx_takeRx (by rw [List.length_singleton]; omega), List.singleton_append]

/-- ReadExact: when the stream brings all the bytes it awaits, one link step a byte takes them, and `done` follows. -/
theorem linkSteps_of_reading_all {s : State} {upto : Nat} {done : State → Out} {bytes : List Byte} {v : Byte}
    {rest : List RxAnswer} (hread : s.seq.reading = some (upto, done))
    (hq : s.link.rxStream = (bytes ++ [v]).map RxAnswer.byte ++ rest)
    (hlen : s.seq.idx.toNat + bytes.length + 1 = upto) (hmax : upto ≤ 258) :
    linkSteps (bytes.length + 1) s = done (takeRx (bytes ++ [v]) rest s) := by
  have hq' : s.link.rxStream = bytes.map RxAnswer.byte ++ (RxAnswer.byte v :: rest) := by
    simpa using hq
  have hpart := linkSteps_of_reading_part hread hq' (by omega) hmax
  have hidx := idx_takeRx_toNat (a := bytes) (s := s) (by omega) (RxAnswer.byte v :: rest)
  rw [linkSteps_add hpart, linkSteps_one, linkStep_of_reading (reading_takeRx hread _ _) rfl (by omega),
    if_neg (by omega), takeRx_takeRx (by omega)]

/-! ## The head (R190, R191, R194, R195) -/

theorem exec_pq (s : State) : exec .pq s = .next (startHead .query s) := rfl

theorem exec_pc (s : State) : exec .pc s = .next (startHead .control s) := rfl

/-- Either parse begins by waiting for its head. -/
theorem exec_parse {i : Instr} (h : i = .pq ∨ i = .pc) (s : State) : ∃ k, exec i s = .next (startHead k s) := by
  rcases h with rfl | rfl
  · exact ⟨.query, exec_pq s⟩
  · exact ⟨.control, exec_pc s⟩

/-- HDR_RAW, STATUS_RAW and B2_RAW report the head. -/
def reportHead (h0 h1 h2 : Byte) (s : State) : State :=
  { s with result := { s.result with hdrRaw := h0, statusRaw := h1, b2Raw := h2 } }

/-- A normal query answer goes on to its body of `n` bytes. -/
def startBody (n : Byte) (s : State) : State :=
  { s with seq := { s.seq with nexp := n, cont := .body } }

/-- The state a parse of kind `k` is in when its head has been received and nothing has been done with it yet. -/
def headTaken (k : AnswerKind) (h0 h1 h2 : Byte) (rest : List RxAnswer) (s : State) : State :=
  takeRx [h0, h1, h2] rest (startHead k s)

section
variable {k : AnswerKind} {h0 h1 h2 : Byte} {rest : List RxAnswer} {s : State}

theorem linkSteps_startHead (h : s.link.rxStream = [RxAnswer.byte h0, .byte h1, .byte h2] ++ rest) :
    linkSteps 3 (startHead k s) = afterHead k (headTaken k h0 h1 h2 rest s) :=
  linkSteps_of_reading_all (s := startHead k s) (bytes := [h0, h1]) (v := h2) rfl h rfl (by decide)

theorem readBytes_headTaken : (headTaken k h0 h1 h2 rest s).bufs.rxbuf.readBytes 0 3 = [h0, h1, h2] :=
  Memory.readBytes_writeBytes_same s.bufs.rxbuf 0 [h0, h1, h2]

theorem afterHead_of_wrong_header (hbuf : s.bufs.rxbuf.readBytes 0 3 = [h0, h1, h2]) (hne : h0 ≠ 0x70) :
    afterHead k s = .next (finish .framing (reportHead h0 h1 h2 s)) := by
  unfold afterHead
  rw [withRead_of_le (b := .rxbuf) (by decide), State.buf, hbuf]
  exact if_neg hne

/-- A control answer, and a query answer whose status is not Completed, are complete with their head. -/
theorem afterHead_of_short (hbuf : s.bufs.rxbuf.readBytes 0 3 = [0x70, h1, h2])
    (hshort : k = .control ∨ h1 ≠ 0x00) :
    afterHead k s = compareChecksum [0x70, h1] h2 (reportHead 0x70 h1 h2 s) (concludeStatus k h1) := by
  unfold afterHead
  rw [withRead_of_le (b := .rxbuf) (by decide), State.buf, hbuf]
  cases k with
  | control => rfl
  | query => exact if_neg (hshort.resolve_left nofun)

/-- With length byte 0 a normal query answer has no body to read (R196). -/
theorem afterHead_of_empty_body (hbuf : s.bufs.rxbuf.readBytes 0 3 = [0x70, 0x00, 0x00]) :
    afterHead .query s = afterBody (startBody 0x00 (reportHead 0x70 0x00 0x00 s)) := by
  unfold afterHead
  rw [withRead_of_le (b := .rxbuf) (by decide), State.buf, hbuf]
  rfl

theorem afterHead_of_body (hbuf : s.bufs.rxbuf.readBytes 0 3 = [0x70, 0x00, h2]) (hne : h2 ≠ 0x00) :
    afterHead .query s = .next (startBody h2 (reportHead 0x70 0x00 h2 s)) := by
  unfold afterHead
  rw [withRead_of_le (b := .rxbuf) (by decide), State.buf, hbuf]
  exact if_neg hne

end

theorem endedWith_finish (r : ResultKind) (s : State) : (finish r s).endedWith r := ⟨rfl, rfl, rfl, rfl, rfl⟩

/-- Settles O19: the header check comes first, so the parse ends with the raw bytes reported and nothing else. -/
theorem wrongHeaderEndsWithFraming : Obligations.WrongHeaderEndsWithFraming := by
  intro i s h0 h1 h2 rest hi hne hstream
  obtain ⟨k, hexec⟩ := exec_parse hi s
  refine ⟨_, finish .framing (reportHead h0 h1 h2 (headTaken k h0 h1 h2 rest s)), hexec, ?run,
    endedWith_finish _ _, fun haccepted => ?record, rfl⟩
  case run => rw [linkSteps_startHead hstream, afterHead_of_wrong_header readBytes_headTaken hne]
  case record =>
    change s.result.rxCk = 0 ∧ s.result.calcCk = 0 ∧ s.result.statusCode = .none ∧ s.result.rxCount + 3 = 3
    rw [haccepted]
    exact ⟨rfl, rfl, rfl, rfl⟩

/-! ## The checksum comparison (R194, R195) -/

/-- ACC has run over `covered`, and both checksums are reported. -/
def reportChecksums (covered : List Byte) (c : Byte) (s : State) : State :=
  { runAcc covered s with result := { s.result with calcCk := checksum covered, rxCk := c } }

section
variable {covered : List Byte} {c : Byte} {s : State} {pass : State → Out}

@[simp] theorem reportChecksums_rxCount : (reportChecksums covered c s).result.rxCount = s.result.rxCount := rfl

@[simp] theorem reportChecksums_link : (reportChecksums covered c s).link = s.link := rfl

theorem compareChecksum_of_eq (h : checksum covered = c) :
    compareChecksum covered c s pass = pass (reportChecksums covered c s) :=
  if_pos h

theorem compareChecksum_of_ne (h : checksum covered ≠ c) :
    compareChecksum covered c s pass = .next (finish .checksum (reportChecksums covered c s)) :=
  if_neg h

end

/-! ## Short answers: AnsQErr and AnsC (R192, R193, R197) -/

theorem checksum_short (st : Byte) : checksum [0x70, st] = 0x70 + st := by simp

/-- How the parse of kind `k` of a valid short answer of status `st` leaves the block, with `rest` unread. -/
structure ShortAnswerParsed (k : AnswerKind) (st : Byte) (rest : List RxAnswer) (t : State) : Prop where
  unread : t.link.rxStream = rest
  statusRaw : t.result.statusRaw = st
  completed : st = 0x00 → t.endedWith .ok ∧ t.result.statusCode = .completed
  status : st ≠ 0x00 → t.endedWith .status ∧ t.result.statusCode = decodeStatus k st

theorem concludeStatus_parsed (k : AnswerKind) (s : State) :
    ∃ t, concludeStatus k s.result.statusRaw s = .next t ∧
      ShortAnswerParsed k s.result.statusRaw s.link.rxStream t := by
  unfold concludeStatus
  split
  next hst => exact ⟨_, rfl, rfl, rfl, fun _ => ⟨endedWith_finish _ _, rfl⟩, fun h => absurd hst h⟩
  next hst => exact ⟨_, rfl, rfl, rfl, fun h => absurd h hst, fun _ => ⟨endedWith_finish _ _, rfl⟩⟩

/-- A short answer with its right checksum is decoded by the table of the running parse. -/
theorem linkSteps_short_answer {k : AnswerKind} {st : Byte} {rest : List RxAnswer} {s : State}
    (hshort : k = .control ∨ st ≠ 0x00) (hstream : s.link.rxStream = (ansShort st).map RxAnswer.byte ++ rest) :
    ∃ t, linkSteps 3 (startHead k s) = .next t ∧ ShortAnswerParsed k st rest t := by
  rw [linkSteps_startHead hstream, afterHead_of_short readBytes_headTaken hshort,
    compareChecksum_of_eq (checksum_short st)]
  exact concludeStatus_parsed k (reportChecksums _ _ (reportHead 0x70 st _ (headTaken k 0x70 st _ rest s)))

/-! ## The status tables (R192, R193) -/

theorem statusCodeCode_decodeCtl {st : Byte} (hst : st ≠ 0x00) :
    (statusCodeCode (decodeCtl st)).toNat = if st.toNat ≤ 4 then st.toNat else 5 := by
  unfold decodeCtl
  split
  next h => rw [h]; rfl
  split
  next h => rw [h]; rfl
  split
  next h => rw [h]; rfl
  split
  next h => rw [h]; rfl
  next h1 h2 h3 h4 =>
    have habove : ¬ st.toNat ≤ 4 := by
      simp only [Config.stLimitUpper, Config.stLimitLower, Config.stCanceled, Config.stParseError] at h1 h2 h3 h4
      bv_omega
    rw [if_neg habove]
    rfl

/-- 0x01 and 0x02 have no row of their own in the query table. -/
theorem statusCodeCode_decodeQry (st : Byte) :
    (statusCodeCode (decodeQry st)).toNat = if st = 0x03 then 3 else if st = 0x04 then 4 else 5 := by
  rw [decodeQry, Config.stCanceled, Config.stParseError]
  split
  next => rfl
  next => split <;> rfl

/-- Settles O17: beside the table, a control answer is complete with its head whatever its status. -/
theorem controlStatusTable : Obligations.ControlStatusTable := by
  intro st hst
  refine ⟨statusCodeCode_decodeCtl hst, fun s rest hstream => ?_⟩
  obtain ⟨t, hrun, hparsed⟩ := linkSteps_short_answer (.inl rfl) hstream
  obtain ⟨hended, hcode⟩ := hparsed.status hst
  exact ⟨_, t, exec_pc s, hrun, hended, hcode, hparsed.statusRaw⟩

/-- Settles O18: beside the table, a status other than Completed makes the query answer a short one. -/
theorem queryStatusTable : Obligations.QueryStatusTable := by
  intro st hst
  refine ⟨statusCodeCode_decodeQry st, fun s rest hstream => ?_⟩
  obtain ⟨t, hrun, hparsed⟩ := linkSteps_short_answer (.inr hst) hstream
  obtain ⟨hended, hcode⟩ := hparsed.status hst
  exact ⟨_, t, exec_pq s, hrun, hended, hcode, hparsed.statusRaw⟩

/-! ## The body of a normal query answer (R194, R196) -/

/-- What follows a right checksum: the payload is stored, PLEN counts it, and the operation ends OK and Completed. -/
def concludePayload (p : List Byte) (s : State) : Out :=
  withWrite .payload 0 p s fun s1 =>
    .next (finish .ok { s1 with
      result := { s1.result with plen := BitVec.ofNat 8 p.length, statusCode := .completed } })

/-- The state of a query parse whose head 70 00 n has been received and reported: `n` bytes of body are to come. -/
def bodyAwaited (n : Byte) (rest : List RxAnswer) (s : State) : State :=
  startBody n (reportHead 0x70 0x00 n (headTaken .query 0x70 0x00 n rest s))

/-- The last byte of the buffer is compared with the checksum of the others. -/
theorem afterBody_eq {s : State} {covered : List Byte} {c : Byte}
    (hbuf : s.bufs.rxbuf.readBytes 0 (3 + s.seq.nexp.toNat) = covered ++ [c]) :
    afterBody s = compareChecksum covered c s (concludePayload (covered.drop 3)) := by
  have hfits : 0 + (3 + s.seq.nexp.toNat) ≤ bufferSize .rxbuf := by
    have := s.seq.nexp.isLt
    simp only [bufferSize, Config.rxbufMax]
    omega
  unfold afterBody
  rw [withRead_of_le hfits, State.buf, hbuf, List.dropLast_concat]
  simp only [List.getLastD_concat]
  rfl

/-- Settles O24: the head is its own body, 70 00 followed by the checksum 00, and 70 + 00 is not 00. -/
theorem pqLengthZeroEndsWithChecksum : Obligations.PqLengthZeroEndsWithChecksum := by
  intro s rest hcount hstream
  refine ⟨_, finish .checksum (reportChecksums [0x70, 0x00] 0x00 (bodyAwaited 0x00 rest s)),
    exec_pq s, ?run, endedWith_finish _ _, checksum_short 0x00, rfl, ?count, rfl, rfl⟩
  case run =>
    rw [linkSteps_startHead hstream, afterHead_of_empty_body readBytes_headTaken, ← bodyAwaited,
      afterBody_eq (covered := [0x70, 0x00]) (c := 0x00) (readBytes_headTaken (rest := rest)),
      compareChecksum_of_ne (by decide)]
  case count =>
    change s.result.rxCount + 3 = 3
    rw [hcount, zero_add]

/-- The state of a query parse when the whole normal answer 70 00 n p c has been received. -/
def bodyTaken (n : Byte) (p : List Byte) (c : Byte) (rest : List RxAnswer) (s : State) : State :=
  takeRx (p ++ [c]) rest (bodyAwaited n ((p ++ [c]).map RxAnswer.byte ++ rest) s)

section
variable {n c : Byte} {p : List Byte} {rest : List RxAnswer} {s : State}

/-- RXBUF holds the whole answer: head and body have been stored one behind the other. -/
theorem readBytes_bodyTaken (hn : n.toNat = p.length + 1) :
    (bodyTaken n p c rest s).bufs.rxbuf.readBytes 0 (3 + n.toNat) = ([0x70, 0x00, n] ++ p) ++ [c] := by
  have hstore : (bodyTaken n p c rest s).bufs.rxbuf =
      s.bufs.rxbuf.writeBytes 0 (([0x70, 0x00, n] ++ p) ++ [c]) := by
    rw [List.append_assoc, Memory.writeBytes_append]
    rfl
  have hcount : 3 + n.toNat = (([0x70, 0x00, n] ++ p) ++ [c]).length := by
    simp [hn]
    omega
  rw [hstore, hcount, Memory.readBytes_writeBytes_same]

/-- A normal query answer is read in full, and then its checksum is compared. -/
theorem linkSteps_normal_answer (hn : n.toNat = p.length + 1)
    (hstream : s.link.rxStream = ([0x70, 0x00, n] ++ p ++ [c]).map RxAnswer.byte ++ rest) :
    linkSteps (p.length + 4) (startHead .query s) =
      compareChecksum ([0x70, 0x00, n] ++ p) c (bodyTaken n p c rest s) (concludePayload p) := by
  have hne : n ≠ 0x00 := by
    rintro rfl
    simp at hn
  have hmax : 3 + n.toNat ≤ 258 := by
    have := n.isLt
    omega
  have hhead : linkSteps 3 (startHead .query s) =
      .next (bodyAwaited n ((p ++ [c]).map RxAnswer.byte ++ rest) s) := by
    have hstream' : s.link.rxStream =
        [RxAnswer.byte 0x70, .byte 0x00, .byte n] ++ ((p ++ [c]).map RxAnswer.byte ++ rest) := by
      simpa using hstream
    rw [linkSteps_startHead hstream', afterHead_of_body readBytes_headTaken hne, bodyAwaited]
  have hlen : 3 + p.length + 1 = 3 + n.toNat := by omega
  have hbody : linkSteps (p.length + 1) (bodyAwaited n ((p ++ [c]).map RxAnswer.byte ++ rest) s) =
      afterBody (bodyTaken n p c rest s) :=
    linkSteps_of_reading_all rfl rfl hlen hmax
  rw [show p.length + 4 = 3 + (p.length + 1) by omega, linkSteps_add hhead, hbody]
  exact afterBody_eq (readBytes_bodyTaken hn)

theorem rxCount_bodyTaken :
    (bodyTaken n p c rest s).result.rxCount = s.result.rxCount + BitVec.ofNat 9 (p.length + 4) := by
  rw [show p.length + 4 = 3 + (p ++ [c]).length by simp; omega, BitVec.ofNat_add, ← BitVec.add_assoc]
  rfl

theorem concludePayload_of_le (h : p.length ≤ 254) : concludePayload p s =
    .next (finish .ok { s.setBuf .payload (s.bufs.payload.writeBytes 0 p) with
      result := { s.result with plen := BitVec.ofNat 8 p.length, statusCode := .completed } }) :=
  withWrite_of_le (b := .payload) (by rwa [Nat.zero_add])

/-- A payload that fits is read back, and the parse has ended OK; nothing more is read. -/
theorem concludePayload_parsed (h : p.length ≤ 254) (s : State) :
    ∃ t, concludePayload p s = .next t ∧ t.endedWith .ok ∧ t.payloadBytes = p ∧
      t.result.rxCount = s.result.rxCount ∧ t.link = s.link := by
  refine ⟨_, concludePayload_of_le h, endedWith_finish _ _, ?payload, rfl, rfl⟩
  case payload =>
    change (s.bufs.payload.writeBytes 0 p).readBytes 0 (BitVec.ofNat 8 p.length).toNat = p
    rw [BitVec.toNat_ofNat, Nat.mod_eq_of_lt (by omega), Memory.readBytes_writeBytes_same]

end

/-! ## The well-formed answers (R197) -/

/-- AnsQ(p) is read in full and its payload read back: its length byte counts payload and checksum. -/
theorem linkSteps_ansQ {p : List Byte} {rest : List RxAnswer} {s : State} (hle : p.length ≤ 254)
    (hstream : s.link.rxStream = (ansQ p).map RxAnswer.byte ++ rest) :
    ∃ t, linkSteps (p.length + 4) (startHead .query s) = .next t ∧ t.endedWith .ok ∧ t.payloadBytes = p ∧
      t.result.rxCount = s.result.rxCount + BitVec.ofNat 9 (p.length + 4) ∧ t.link.rxStream = rest := by
  have hn : (BitVec.ofNat 8 (p.length + 1)).toNat = p.length + 1 := by
    rw [BitVec.toNat_ofNat, Nat.mod_eq_of_lt (by omega)]
  rw [ansQ, withChecksum] at hstream
  generalize BitVec.ofNat 8 (p.length + 1) = n at hn hstream
  rw [linkSteps_normal_answer hn hstream, compareChecksum_of_eq rfl]
  obtain ⟨t, hrun, hended, hpayload, hcount, hlink⟩ := concludePayload_parsed hle
    (reportChecksums ([0x70, 0x00, n] ++ p) (checksum ([0x70, 0x00, n] ++ p)) (bodyTaken n p _ rest s))
  rw [reportChecksums_rxCount, rxCount_bodyTaken] at hcount
  rw [reportChecksums_link] at hlink
  exact ⟨t, hrun, hended, hpayload, hcount, congrArg Transport.rxStream hlink⟩

/-- Settles O28: AnsQ by the two ReadExacts of a normal answer, AnsQErr and AnsC by the one of a short answer. -/
theorem wellFormedAnswersRoundTrip : Obligations.WellFormedAnswersRoundTrip := by
  intro s rest hcount
  refine ⟨fun p hle hstream => ?ansQ, fun st hst hstream => ?ansQErr, fun st hstream => ?ansC⟩
  case ansQ =>
    obtain ⟨t, hrun, hended, hpayload, hrx, hrest⟩ := linkSteps_ansQ hle hstream
    rw [hcount, zero_add] at hrx
    exact ⟨_, t, exec_pq s, hrun, hended, hpayload, hrx, hrest⟩
  case ansQErr =>
    obtain ⟨t, hrun, hparsed⟩ := linkSteps_short_answer (.inr hst) hstream
    obtain ⟨hended, hcode⟩ := hparsed.status hst
    exact ⟨_, t, exec_pq s, hrun, hended, hcode, hparsed.unread⟩
  case ansC =>
    obtain ⟨t, hrun, hparsed⟩ := linkSteps_short_answer (.inl rfl) hstream
    exact ⟨_, t, exec_pc s, hrun, hparsed.unread, hparsed.completed, hparsed.status⟩

end Sys2Proof.Machine

/-! The encoding read back (30_encoding R100 to R118): decoding what the encoder writes, and encoding what the decoder
accepts. -/

namespace Sys2Proof

open Machine

/-! ## Requests (R112 to R115) -/

/-- The decoder reads back the fields the encoder packs. -/
theorem decode_packed_request (op : BitVec 3) (f d1 d2 : Byte) (dlen : Count) (data : List Byte) :
    decode (.request (packReq0 op f d1 d2) (packReq1 dlen) data) = .ok (decodeFields op f d1 d2 dlen data) := by
  rw [decode, decodeRequest, reqOp_packReq0, reqFunc_packReq0, reqD1_packReq0, reqD2_packReq0, reqDlen_packReq1]

/-- Data of the length DLEN latches is the operand itself. -/
theorem takeBytes_of_wf {dlen : Count} {data : List Byte} (h : (data.length == latchedLength dlen) = true) :
    takeBytes (latchedLength dlen) data = data :=
  takeBytes_of_length_eq (by simpa using h)

/-! ## Frames (R100 to R109) -/

theorem decodeRequestFrame_qreq (f a b c : Byte) :
    decodeRequestFrame [Config.hdrQuery, Config.category, f, a, b, c] = .ok (.qreq f a b c) := rfl

/-- The length byte of a control request counts the data and the checksum behind it (R106). -/
theorem decodeRequestFrame_creq {l : Byte} {d : List Byte} (h : l.toNat = d.length + 1) (f c : Byte) :
    decodeRequestFrame ([Config.hdrControl, Config.category, f, l] ++ d ++ [c]) = .ok (.creq f l d c) := by
  have hheader : Config.hdrControl ≠ Config.hdrQuery := by decide
  have hlen : l.toNat = (d ++ [c]).length := by simpa using h
  simp only [List.cons_append, List.nil_append, decodeRequestFrame, if_neg hheader, if_pos, if_pos hlen,
    List.getLast?_concat, List.dropLast_concat]

/-- The length byte of a normal query answer counts the payload and the checksum (R107); what follows is left over. -/
theorem decodeAnswer_ansQOk {n : Byte} {p : List Byte} (h : n.toNat = p.length + 1) (c : Byte) :
    decodeAnswer .query ([Config.hdrAnswer, Config.stCompleted, n] ++ p ++ [c]) = .ok (.ansQOk n p c, []) := by
  have hne : n ≠ 0 := by
    rintro rfl
    simp at h
  have hpred : n.toNat - 1 = p.length := by omega
  simp only [List.cons_append, List.nil_append, decodeAnswer, if_pos, if_neg hne, hpred, List.drop_left,
    List.take_left]

theorem decodeAnswer_ansQErr {st : Byte} (h : st ≠ Config.stCompleted) (c : Byte) :
    decodeAnswer .query [Config.hdrAnswer, st, c] = .ok (.ansQErr st c, []) := by
  simp only [decodeAnswer, if_pos, if_neg h]

/-- An answer that leaves nothing over is a frame. -/
theorem decode_answer_of_whole {k : AnswerKind} {bytes : List Byte} {i : Instr}
    (h : decodeAnswer k bytes = .ok (i, [])) : decode (.frame (.answer k) bytes) = .ok i := by
  rw [decode, h]

/-- Settles O1: a request row by the fields it packs, a frame row by its own frame. -/
theorem decodeOfEncodeIsIdentity : Obligations.DecodeOfEncodeIsIdentity := by
  intro i hwf
  cases i with
  | chk dlen data => exact (decode_packed_request 0 0 0 0 dlen data).trans (by simp [takeBytes_of_wf hwf])
  | bq f d1 d2 => exact decode_packed_request 1 f d1 d2 0 []
  | bc f dlen data => exact (decode_packed_request 2 f 0 0 dlen data).trans (by simp [takeBytes_of_wf hwf])
  | send => exact decode_packed_request 3 0 0 0 0 []
  | pq => exact decode_packed_request 4 0 0 0 0 []
  | pc => exact decode_packed_request 5 0 0 0 0 []
  | xq f d1 d2 => exact decode_packed_request 6 f d1 d2 0 []
  | xc f dlen data => exact (decode_packed_request 7 f 0 0 dlen data).trans (by simp [takeBytes_of_wf hwf])
  | qreq f a b c => exact decodeRequestFrame_qreq f a b c
  | creq f l d c =>
    simp only [Instr.wf, Bool.and_eq_true, beq_iff_eq] at hwf
    exact decodeRequestFrame_creq hwf.1 f c
  | ansQOk n p c => exact decode_answer_of_whole (decodeAnswer_ansQOk (by simpa [Instr.wf] using hwf) c)
  | ansQErr st c => exact decode_answer_of_whole (decodeAnswer_ansQErr (by simpa [Instr.wf] using hwf) c)
  | ansC st c => rfl

/-! ## What an accepted frame was (R101 to R109) -/

/-- The two rows of a request frame. -/
def Instr.isRequestRow : Instr → Prop
  | .qreq _ _ _ _ => True
  | .creq _ _ _ _ => True
  | _ => False

/-- The three rows of an answer frame. -/
def Instr.isAnswerRow : Instr → Prop
  | .ansQOk _ _ _ => True
  | .ansQErr _ _ => True
  | .ansC _ _ => True
  | _ => False

/-- The bytes read as a request frame are its encoding. -/
theorem decodeRequestFrame_ok {bytes : List Byte} {i : Instr} (h : decodeRequestFrame bytes = .ok i) :
    i.isRequestRow ∧ encode i = .frame .request bytes := by
  unfold decodeRequestFrame at h
  split at h
  next hd cat f rest =>
    split at h
    next hquery =>
      split at h
      next hcat =>
        subst hquery hcat
        split at h
        next => cases h; exact ⟨trivial, rfl⟩
        next => cases h
        next => cases h
      next => cases h
    next =>
      split at h
      next hcontrol =>
        split at h
        next hcat =>
          subst hcontrol hcat
          split at h
          next => cases h
          next l body =>
            split at h
            next hlen =>
              split at h
              next => cases h
              next c hlast =>
                cases h
                refine ⟨trivial, ?_⟩
                rw [encode, List.append_assoc, List.dropLast_append_getLast? c hlast]
                rfl
            next => cases h
        next => cases h
      next => cases h
  next => cases h

/-- The bytes read as the answer at the front are its encoding, and the rest is left over. -/
theorem decodeAnswer_ok {k : AnswerKind} {bytes rest : List Byte} {i : Instr}
    (h : decodeAnswer k bytes = .ok (i, rest)) :
    i.isAnswerRow ∧ ∃ front, encode i = .frame (.answer k) front ∧ bytes = front ++ rest := by
  unfold decodeAnswer at h
  split at h
  next hd st b2 more =>
    split at h
    next hheader =>
      subst hheader
      split at h
      next => cases h; exact ⟨trivial, _, rfl, rfl⟩
      next =>
        split at h
        next hst =>
          subst hst
          split at h
          next => cases h
          next =>
            split at h
            next => cases h
            next c after hdrop =>
              cases h
              refine ⟨trivial, _, rfl, ?_⟩
              have hsplit := List.take_append_drop (b2.toNat - 1) more
              rw [hdrop] at hsplit
              simp [hsplit]
        next => cases h; exact ⟨trivial, _, rfl, rfl⟩
    next => cases h
  next => cases h

/-- Settles O2: a request frame is read whole, and an answer is a frame when nothing is left over. -/
theorem decodedFrameReencodesToItsBytes : Obligations.DecodedFrameReencodesToItsBytes := by
  intro dir bytes i h
  cases dir with
  | request => exact (decodeRequestFrame_ok h).2
  | answer k =>
    rw [decode] at h
    split at h
    next j hans =>
      cases h
      obtain ⟨-, front, hencode, hbytes⟩ := decodeAnswer_ok hans
      rw [hencode, hbytes, List.append_nil]
    next => cases h
    next => cases h

/-- Settles O4: each clause evaluates the decoder, the assembler or the table's reader on the words written out. -/
theorem sampleWordsDecodeToTheirRows : Obligations.SampleWordsDecodeToTheirRows := by
  unfold Obligations.SampleWordsDecodeToTheirRows
  decide

end Sys2Proof

/-! The validator (40_checksum R142) and the corruptions the sum does not see (R146). -/

namespace Sys2Proof.Machine

theorem validFrame_concat (body : List Byte) (c : Byte) : validFrame (body ++ [c]) = true ↔ checksum body = c := by
  rw [validFrame, List.getLast?_concat, List.dropLast_concat]
  exact beq_iff_eq

/-- Settles O7: a sequence is empty or some bytes and a last one. -/
theorem validatorAcceptsExactlyTheRule : Obligations.ValidatorAcceptsExactlyTheRule := by
  intro fr
  rcases List.eq_nil_or_concat fr with rfl | ⟨body, c, rfl⟩
  · simp [validFrame]
  · rw [List.concat_eq_append, validFrame_concat]
    simp [eq_comm]

/-- Settles O9: the sum of the bytes before the checksum is the same, or has grown by what the checksum has. -/
theorem sumPreservingCorruptionsStayValid : Obligations.SumPreservingCorruptionsStayValid := by
  intro pre mid post x y c k h
  simp only [validFrame_concat, checksum_append, checksum_cons, checksum_nil, add_zero] at h ⊢
  subst h
  refine ⟨?swapped, ?raisedAndLowered, ?raisedWithChecksum⟩
  case swapped => ring
  case raisedAndLowered => ring
  case raisedWithChecksum => ring

end Sys2Proof.Machine

/-! What the host reads (10_state R35 to R42, R49) and what acceptance latches (R34). -/

namespace Sys2Proof.Machine

/-! ## Fields of a host word as numbers (R35) -/

theorem toNat_fieldAt {w lo : Nat} (v : BitVec w) (h : lo + w ≤ 32) : (fieldAt lo v).toNat = v.toNat * 2 ^ lo := by
  have hv : v.toNat * 2 ^ lo < 2 ^ 32 :=
    calc v.toNat * 2 ^ lo < 2 ^ w * 2 ^ lo := Nat.mul_lt_mul_of_pos_right v.isLt (Nat.two_pow_pos lo)
      _ = 2 ^ (w + lo) := (pow_add 2 w lo).symm
      _ ≤ 2 ^ 32 := Nat.pow_le_pow_right (by decide) (by omega)
  have hw : v.toNat < 2 ^ 32 := lt_of_le_of_lt (Nat.le_mul_of_pos_right _ (Nat.two_pow_pos lo)) hv
  rw [fieldAt, BitVec.toNat_shiftLeft, BitVec.toNat_setWidth, Nat.shiftLeft_eq, Nat.mod_eq_of_lt hw,
    Nat.mod_eq_of_lt hv]

/-- A field above all bits of a word adds to it. -/
theorem toNat_or_fieldAt {w lo : Nat} {x : HostWord} (v : BitVec w) (hx : x.toNat < 2 ^ lo) (h : lo + w ≤ 32) :
    (x ||| fieldAt lo v).toNat = x.toNat + v.toNat * 2 ^ lo := by
  rw [BitVec.toNat_or, toNat_fieldAt v h, Nat.or_comm, mul_comm, ← Nat.two_pow_add_eq_or_of_lt hx, add_comm]

theorem toNat_rn0 (r : ResultRecord) : (rn0 r).toNat =
    r.busy.toNat + r.resultValid.toNat * 2 + (resultKindCode r.resultKind).toNat * 4 +
      (statusCodeCode r.statusCode).toNat * 32 + (ioDirCode r.ioDir).toNat * 256 := by
  have hbusy := (BitVec.ofBool r.busy).isLt
  have hvalid := (BitVec.ofBool r.resultValid).isLt
  have hkind := (resultKindCode r.resultKind).isLt
  have hstatus := (statusCodeCode r.statusCode).isLt
  have h0 := toNat_fieldAt (lo := 0) (BitVec.ofBool r.busy) (by decide)
  have h1 := toNat_or_fieldAt (lo := 1) (BitVec.ofBool r.resultValid) (by omega) (by decide)
    (x := fieldAt 0 (BitVec.ofBool r.busy))
  have h2 := toNat_or_fieldAt (lo := 2) (resultKindCode r.resultKind) (by omega) (by decide)
    (x := fieldAt 0 (BitVec.ofBool r.busy) ||| fieldAt 1 (BitVec.ofBool r.resultValid))
  have h5 := toNat_or_fieldAt (lo := 5) (statusCodeCode r.statusCode) (by omega) (by decide)
    (x := fieldAt 0 (BitVec.ofBool r.busy) ||| fieldAt 1 (BitVec.ofBool r.resultValid)
      ||| fieldAt 2 (resultKindCode r.resultKind))
  rw [rn0, toNat_or_fieldAt _ (by omega) (by decide), h5, h2, h1, h0, BitVec.toNat_ofBool, BitVec.toNat_ofBool]
  omega

/-- RN1 and RN2: three bytes, the lowest first. -/
theorem toNat_three_bytes (a b c : Byte) :
    (fieldAt 0 a ||| fieldAt 8 b ||| fieldAt 16 c).toNat = a.toNat + b.toNat * 2 ^ 8 + c.toNat * 2 ^ 16 := by
  have ha := toNat_fieldAt (lo := 0) a (by decide)
  have hab := toNat_or_fieldAt (lo := 8) b (by omega) (by decide) (x := fieldAt 0 a)
  rw [toNat_or_fieldAt _ (by omega) (by decide), hab, ha]
  omega

theorem toNat_rn3 (r : ResultRecord) : (rn3 r).toNat = r.txCount.toNat + r.rxCount.toNat * 2 ^ 16 := by
  have htx := toNat_fieldAt (lo := 0) r.txCount (by decide)
  rw [rn3, toNat_or_fieldAt _ (by omega) (by decide), htx]
  omega

theorem toNat_rn4 (r : ResultRecord) : (rn4 r).toNat = r.frameLen.toNat := by
  rw [rn4, toNat_fieldAt _ (by decide)]
  omega

/-- Settles O52: each image is the sum of its fields, with BUSY = 0 and the codes by their tables. -/
theorem registerImages : Obligations.RegisterImages := by
  intro s hidle
  refine ⟨_, _, _, _, _, specifiedRead_rn0_of_not_busy hidle, specifiedRead_rn1_of_not_busy hidle,
    specifiedRead_rn2_of_not_busy hidle, specifiedRead_rn3_of_not_busy hidle, specifiedRead_rn4_of_not_busy hidle,
    ?rn0, toNat_three_bytes _ _ _, toNat_three_bytes _ _ _, toNat_rn3 _, toNat_rn4 _⟩
  case rn0 =>
    have hkind : (resultKindCode s.result.resultKind).toNat = (match s.result.resultKind with
        | .ok => 0 | .framing => 1 | .checksum => 2 | .status => 3 | .io => 4 | .length => 5) := by
      cases s.result.resultKind <;> rfl
    have hstatus : (statusCodeCode s.result.statusCode).toNat = (match s.result.statusCode with
        | .completed => 0 | .limitOverUpper => 1 | .limitOverLower => 2 | .commandCanceled => 3
        | .parseError => 4 | .unknown => 5 | .none => 7) := by
      cases s.result.statusCode <;> rfl
    have hdir : (ioDirCode s.result.ioDir).toNat = (match s.result.ioDir with
        | .transmit => 0 | .receive => 1) := by
      cases s.result.ioDir <;> rfl
    have himage := toNat_rn0 s.result
    simp only [hidle, Bool.toNat_false, Nat.zero_add, hkind, hstatus, hdir] at himage
    exact himage

/-! ## Reads of the flags and of the arrays (R40, R41, R49) -/

theorem getLsbD_rn0_flags (r : ResultRecord) :
    (rn0 r).getLsbD 0 = r.busy ∧ (rn0 r).getLsbD 1 = r.resultValid := by
  simp only [rn0, BitVec.getLsbD_or, getLsbD_fieldAt]
  simp

/-- The free value has no bit where the two flags stand. -/
theorem getLsbD_busyRn0_flags (r : ResultRecord) (free : HostWord) :
    (busyRn0 r free).getLsbD 0 = r.busy ∧ (busyRn0 r free).getLsbD 1 = r.resultValid := by
  simp only [busyRn0, BitVec.getLsbD_or, BitVec.getLsbD_and, getLsbD_fieldAt]
  simp

/-- Settles O53: RN0 is read as its image, or under BUSY as the free value with the true flags. -/
theorem hostReadsShowTheFlagsAndChangeNothing : Obligations.HostReadsShowTheFlagsAndChangeNothing := by
  intro s
  have hflags : (hostRead .rn0 s).1.getLsbD 0 = s.result.busy ∧
      (hostRead .rn0 s).1.getLsbD 1 = s.result.resultValid := by
    unfold hostRead
    split
    next v hspec =>
      unfold specifiedRead at hspec
      split at hspec
      · cases hspec
      · cases hspec
        exact getLsbD_rn0_flags s.result
    next => exact getLsbD_busyRn0_flags s.result _
  refine ⟨hflags.1, hflags.2, fun reg => ?state⟩
  case state =>
    unfold hostRead
    split
    · exact ⟨s.draws, rfl⟩
    · exact ⟨s.draws + 1, rfl⟩

/-- A byte shown in a host word, below a valid length, is the byte the buffer holds. -/
theorem specified_byte_iff (m : Memory) (j len : Nat) (v : HostWord) :
    (if j < len then some ((m.read j).setWidth 32) else none) = some v ↔
      (m.readBytes 0 len)[j]?.map BitVec.toNat = some v.toNat := by
  rw [Memory.getElem?_readBytes, Nat.zero_add]
  split
  · have hbyte : ((m.read j).setWidth 32).toNat = (m.read j).toNat :=
      BitVec.toNat_setWidth_of_le (by decide)
    rw [Option.some_inj, Option.map_some, Option.some_inj, ← hbyte]
    exact BitVec.toNat_inj.symm
  · simp

/-- Settles O54: between operations the read is specified below the length, where it is the byte held. -/
theorem arrayReadsAreSpecifiedWithinTheirLength : Obligations.ArrayReadsAreSpecifiedWithinTheirLength := by
  intro s v
  cases hbusy : s.result.busy with
  | true => simp [specifiedRead, hbusy]
  | false =>
    simp only [specifiedRead, hbusy, true_and]
    exact ⟨fun j => specified_byte_iff _ _ _ v, fun j => specified_byte_iff _ _ _ v⟩

/-! ## Acceptance (R34) -/

/-- Settles O44: the latch is the quotients and remainders of the words, and LDATA is DATA up to min(DLEN, 259). -/
theorem acceptanceLatchesThePort : Obligations.AcceptanceLatchesThePort := by
  intro s n
  have hn : latchedLength (reqDlen s.port.req1) = n := by
    rw [reqDlen_eq_ofNat_mod, latchedLength_ofNat_of_lt (Nat.mod_lt _ (by decide))]
  have hread (j : Nat) : (accept s).bufs.ldata.read j =
      if j < n then s.port.data.read j else s.bufs.ldata.read j := by
    rw [accept_ldata, hn, Memory.read_writeBytes, if_pos (Nat.zero_le j), Memory.getElem?_readBytes]
    by_cases hj : j < n <;> simp [hj]
  refine ⟨?lop, ?lfunc, ?ld1, ?ld2, ?ldlen, fun j hj => ?latched, fun j hj => ?kept⟩
  case lop => rw [accept_latch, reqOp_eq_ofNat_mod, BitVec.toNat_ofNat, Nat.mod_mod]
  case lfunc => rw [accept_latch, reqFunc_eq_ofNat_div, BitVec.toNat_ofNat]
  case ld1 => rw [accept_latch, reqD1_eq_ofNat_div, BitVec.toNat_ofNat]
  case ld2 => rw [accept_latch, reqD2_eq_ofNat_div, BitVec.toNat_ofNat]
  case ldlen => rw [accept_latch, reqDlen_eq_ofNat_mod, BitVec.toNat_ofNat, Nat.mod_mod]
  case latched => rw [hread, if_pos hj]
  case kept => rw [hread, if_neg hj.not_gt]

end Sys2Proof.Machine

/-! The send stage (41_framer R162, 20_memory R78): one answered `TxByte`, WriteAll as one lemma for each way it can go,
and SEND. -/

namespace Sys2Proof.Machine

/-- A field that is not 0 counts something. -/
theorem toNat_pos_of_ne_zero {w : Nat} {n : BitVec w} (h : n ≠ 0#w) : 0 < n.toNat := by
  rw [Nat.pos_iff_ne_zero]
  exact fun hzero => h (BitVec.eq_of_toNat_eq (by rw [hzero, BitVec.toNat_zero]))

/-! ## One `TxByte` -/

/-- The answer `a` to the byte at IDX has left its queue and joined the record of link steps. -/
def takeTx (a : TxAnswer) (rest : List TxAnswer) (s : State) : State :=
  { s with link := { s.link with
      txAnswers := rest, history := s.link.history ++ [LinkEvent.tx (s.bufs.frame.read s.seq.idx.toNat) a] } }

/-- The send stage stands before its next byte. -/
def advanceTx (s : State) : State :=
  { s with seq := { s.seq with idx := s.seq.idx + 1 } }

/-- TX_COUNT <- n. -/
def setTxCount (n : Count) (s : State) : State :=
  { s with result := { s.result with txCount := n } }

section
variable {p : Option AnswerKind} {rest : List TxAnswer} {s : State}

theorem txStep_ioerr (h : s.seq.idx.toNat < 259) :
    txStep p .ioerr rest s = .next (raiseIo .transmit (setTxCount s.seq.idx (takeTx .ioerr rest s))) := by
  unfold txStep
  rw [withRead_of_le (b := .frame) h]
  rfl

theorem txStep_ok_of_lt (h : s.seq.idx.toNat < 259) (hmore : s.seq.idx.toNat + 1 < s.result.frameLen.toNat) :
    txStep p .ok rest s = .next (advanceTx (takeTx .ok rest s)) := by
  unfold txStep
  rw [withRead_of_le (b := .frame) h]
  exact if_pos hmore

theorem txStep_ok_last (h : s.seq.idx.toNat < 259) (hlast : s.result.frameLen.toNat ≤ s.seq.idx.toNat + 1) :
    txStep p .ok rest s =
      .next (afterSend p (setTxCount s.result.frameLen (advanceTx (takeTx .ok rest s)))) := by
  unfold txStep
  rw [withRead_of_le (b := .frame) h]
  exact if_neg hlast.not_gt

end

/-! ## WriteAll: what a run of `TxByte` steps sends (R162) -/

/-- The state when the first `k` bytes of the frame have been sent, with the answers `rest` to come. -/
def sending (p : Option AnswerKind) (k : Nat) (rest : List TxAnswer) (s : State) : State :=
  { s with
    link := { s.link with txAnswers := rest, history := s.link.history ++ sentOk (s.frameBytes.take k) }
    seq := { s.seq with cont := .send p, idx := BitVec.ofNat 9 k } }

/-- The state when every byte of the frame has been sent. -/
def frameSent (p : Option AnswerKind) (rest : List TxAnswer) (s : State) : State :=
  setTxCount s.result.frameLen (sending p s.result.frameLen.toNat rest s)

/-- A failure at byte `k` of the frame is reported as an IO outcome. -/
def sendFailed (p : Option AnswerKind) (k : Nat) (rest : List TxAnswer) (s : State) : State :=
  raiseIo .transmit (setTxCount (BitVec.ofNat 9 k) (takeTx .ioerr rest (sending p k (.ioerr :: rest) s)))

section
variable {p : Option AnswerKind} {k : Nat} {rest : List TxAnswer} {s : State}

theorem sending_zero (hcont : s.seq.cont = .send p) (hidx : s.seq.idx = 0) :
    sending p 0 s.link.txAnswers s = s := by
  rw [sending, ← hcont, show BitVec.ofNat 9 0 = s.seq.idx from hidx.symm, List.take_zero, sentOk, List.map_nil,
    List.append_nil]

theorem idx_sending (hk : k < 512) : (sending p k rest s).seq.idx.toNat = k := by
  rw [sending, BitVec.toNat_ofNat, Nat.mod_eq_of_lt hk]

theorem frameBytes_getElem? (hk : k < s.result.frameLen.toNat) :
    s.frameBytes[k]? = some (s.bufs.frame.read k) := by
  rw [State.frameBytes, Memory.getElem?_readBytes, if_pos hk, Nat.zero_add]

/-- The bytes sent grow by the byte at the position. -/
theorem sentOk_take_succ (hk : k < s.result.frameLen.toNat) :
    sentOk (s.frameBytes.take (k + 1)) = sentOk (s.frameBytes.take k) ++ [LinkEvent.tx (s.bufs.frame.read k) .ok] := by
  rw [List.take_add_one, frameBytes_getElem? hk, sentOk, List.map_append]
  rfl

/-- One accepted byte brings the send stage from byte `k` to byte `k + 1`. -/
theorem advanceTx_sending (hk : k < s.result.frameLen.toNat) :
    advanceTx (takeTx .ok rest (sending p k (.ok :: rest) s)) = sending p (k + 1) rest s := by
  have hidx : (BitVec.ofNat 9 k).toNat = k := by
    rw [BitVec.toNat_ofNat, Nat.mod_eq_of_lt (hk.trans s.result.frameLen.isLt)]
  simp only [advanceTx, takeTx, sending, hidx, sentOk_take_succ hk, List.append_assoc, BitVec.ofNat_add]
  rfl

theorem linkStep_sending (a : TxAnswer) : linkStep (sending p k (a :: rest) s) =
    txStep p a rest (sending p k (a :: rest) s) :=
  linkStep_send rfl rfl

/-- Accepted bytes short of the whole frame are sent one a link step, and the next is awaited. -/
theorem linkSteps_sending_part (hlen : s.result.frameLen.toNat ≤ 259) (hk : k < s.result.frameLen.toNat) :
    linkSteps k (sending p 0 (List.replicate k .ok ++ rest) s) = .next (sending p k rest s) := by
  induction k generalizing rest with
  | zero => rfl
  | succ k ih =>
    have hbefore := ih (rest := .ok :: rest) (by omega)
    have hidx : (sending p k (.ok :: rest) s).seq.idx.toNat = k := idx_sending (by omega)
    rw [List.replicate_succ', List.append_assoc, List.singleton_append, linkSteps_add hbefore, linkSteps_one,
      linkStep_sending, txStep_ok_of_lt (by omega) (hidx.symm ▸ hk), advanceTx_sending (by omega)]

/-- WriteAll with a transport that accepts every byte. -/
theorem linkSteps_sending_all (hlen : s.result.frameLen.toNat ≤ 259) (hne : s.result.frameLen.toNat ≠ 0) :
    linkSteps s.result.frameLen.toNat (sending p 0 (List.replicate s.result.frameLen.toNat .ok ++ rest) s) =
      .next (afterSend p (frameSent p rest s)) := by
  obtain ⟨k, hk⟩ := Nat.exists_eq_add_one_of_ne_zero hne
  have hbefore : linkSteps k (sending p 0 (List.replicate k .ok ++ .ok :: rest) s) =
      .next (sending p k (.ok :: rest) s) := linkSteps_sending_part hlen (by omega)
  have hidx : (sending p k (.ok :: rest) s).seq.idx.toNat = k := idx_sending (by omega)
  have hlast : s.result.frameLen.toNat ≤ k + 1 := hk.le
  rw [frameSent, hk, List.replicate_succ', List.append_assoc, List.singleton_append, linkSteps_add hbefore,
    linkSteps_one, linkStep_sending, txStep_ok_last (by omega) (hidx.symm ▸ hlast), advanceTx_sending (by omega)]
  rfl

/-- WriteAll with a failure at byte `k`: nothing after it is offered (20_memory R78). -/
theorem linkSteps_sending_fail (hlen : s.result.frameLen.toNat ≤ 259) (hk : k < s.result.frameLen.toNat) :
    linkSteps (k + 1) (sending p 0 (List.replicate k .ok ++ .ioerr :: rest) s) = .next (sendFailed p k rest s) := by
  have hidx : (sending p k (.ioerr :: rest) s).seq.idx.toNat = k := idx_sending (by omega)
  rw [linkSteps_add (linkSteps_sending_part hlen hk), linkSteps_one, linkStep_sending, txStep_ioerr (by omega)]
  rfl

/-- The send stage of a frame that is not empty stands before byte 0. -/
theorem sendStage_eq_sending (hlen : s.result.frameLen.toNat ≤ 259) (hne : s.result.frameLen.toNat ≠ 0) :
    sendStage p s = .next (sending p 0 s.link.txAnswers s) := by
  have hne' : s.result.frameLen ≠ 0 := fun h => hne (by rw [h]; rfl)
  rw [sendStage_of_nonempty hne' hlen, sending, List.take_zero, sentOk, List.map_nil, List.append_nil]
  rfl

/-- How a failed send leaves the state: the byte at the position was offered, those before it stay sent. -/
theorem sendFailed_eq {b : Byte} (hb : s.frameBytes[k]? = some b) : sendFailed p k rest s =
    { s with
      link := { s.link with
        txAnswers := rest
        history := s.link.history ++ sentOk (s.frameBytes.take k) ++ [LinkEvent.tx b .ioerr] }
      result := { s.result with
        txCount := BitVec.ofNat 9 k, ioDir := .transmit, resultKind := .io, resultValid := true, busy := false }
      seq := (sendFailed p k rest s).seq } := by
  obtain ⟨hk, -⟩ := List.getElem?_eq_some_iff.mp hb
  rw [Memory.length_readBytes] at hk
  have hidx : (sending p k (.ioerr :: rest) s).seq.idx.toNat = k :=
    idx_sending (hk.trans s.result.frameLen.isLt)
  rw [frameBytes_getElem? hk, Option.some_inj] at hb
  rw [← hb, sendFailed, takeTx, hidx]
  rfl

theorem endedWith_sendFailed : (sendFailed p k rest s).endedWith .io := endedWith_finish _ _

end

/-! ## SEND (R162) -/

theorem exec_send (s : State) : exec .send s = sendStage none s := rfl

/-- Settles O13: an empty frame ends at once; any other is sent by WriteAll, after which SEND ends. -/
theorem sendTransmitsTheFrame : Obligations.SendTransmitsTheFrame := by
  intro s rest hlen hanswers
  by_cases hzero : s.result.frameLen.toNat = 0
  · have hlen0 : s.result.frameLen = 0 := BitVec.eq_of_toNat_eq hzero
    rw [hzero, List.replicate_zero, List.nil_append] at hanswers
    refine ⟨_, _, (exec_send s).trans (sendStage_of_empty hlen0), by rw [hzero]; rfl, endedWith_finish _ _, ?_⟩
    rw [State.frameBytes, hzero, ← hanswers, hlen0, Memory.readBytes_zero, sentOk, List.map_nil, List.append_nil]
    rfl
  · refine ⟨_, afterSend none (frameSent none rest s), (exec_send s).trans (sendStage_eq_sending hlen hzero), ?run,
      endedWith_finish _ _, ?state⟩
    case run => rw [hanswers, linkSteps_sending_all hlen hzero]
    case state =>
      rw [frameSent, sending, List.take_of_length_le (Memory.length_readBytes _ _ _).le]
      rfl

/-- Settles O14: WriteAll stops at the byte that fails. -/
theorem sendStopsAtAWriteFailure : Obligations.SendStopsAtAWriteFailure := by
  intro s k b rest hlen hb hanswers
  obtain ⟨hk, -⟩ := List.getElem?_eq_some_iff.mp hb
  rw [Memory.length_readBytes] at hk
  refine ⟨_, sendFailed none k rest s, (exec_send s).trans (sendStage_eq_sending hlen (by omega)), ?run,
    endedWith_sendFailed, sendFailed_eq hb⟩
  case run => rw [hanswers, linkSteps_sending_fail hlen hk]

/-- Settles O15: the state between two bytes is `sending`, whose link step without an answer does nothing. -/
theorem sendWaitsForTheTransport : Obligations.SendWaitsForTheTransport := by
  intro s k rest hlen hk hanswers
  refine ⟨_, sending none k rest s, (exec_send s).trans (sendStage_eq_sending hlen (by omega)), ?run, ?waits, rfl⟩
  case run => rw [hanswers, linkSteps_sending_part hlen hk]
  case waits =>
    rintro rfl
    rfl

/-- CHECKSUM ends in one of two ways, neither of which touches FRAME. -/
theorem execChk_keepsFrame (dlen : Count) (data : List Byte) : KeepsFrame (execChk dlen data) := by
  intro s t h
  unfold execChk at h
  split at h
  · cases h
    exact finish_sameFrame _ s
  · cases h
    exact ⟨rfl, rfl⟩

theorem startHead_keepsFrame (k : AnswerKind) : KeepsFrame (fun s => .next (startHead k s)) := by
  intro s t h
  cases h
  exact ⟨rfl, rfl⟩

/-- Settles O16: CHK ends, SEND starts or ends, a parse starts, and a link step keeps the frame. -/
theorem framePersistsOverOtherOperations : Obligations.FramePersistsOverOtherOperations := by
  refine ⟨fun i s t hi h => ?operation, fun s t h => ?link⟩
  case operation =>
    have hsame : SameFrame s t := by
      rcases hi with ⟨dlen, data, rfl⟩ | rfl | rfl | rfl
      · exact execChk_keepsFrame dlen data h
      · exact sendStage_keepsFrame none h
      · exact startHead_keepsFrame .query h
      · exact startHead_keepsFrame .control h
    exact ⟨hsame.frame, hsame.frameLen⟩
  case link =>
    have hsame := linkStep_keepsFrame h
    exact ⟨hsame.frame, hsame.frameLen⟩

/-! ## Request frames on the link (30_encoding R101, R102; log 8) -/

/-- A request frame is transmitted where the block offers exactly it. -/
theorem exec_requestRow {i : Instr} (h : i.isRequestRow) (s : State) : exec i s = transmitFrame (wireBytes i) s := by
  cases i with
  | qreq f a b c => rfl
  | creq f l d c => rfl
  | _ => exact h.elim

theorem offers_iff {fr : List Byte} {s : State} : offers fr s = true ↔
    (∃ p, s.seq.cont = .send p) ∧ s.seq.idx = 0 ∧ s.result.frameLen.toNat ≤ 259 ∧ s.frameBytes = fr := by
  unfold offers
  split
  next p hcont =>
    simp only [Bool.and_eq_true, beq_iff_eq, decide_eq_true_eq, and_assoc]
    exact ⟨fun h => ⟨⟨p, hcont⟩, h⟩, fun h => h.2⟩
  next hcont => exact ⟨nofun, fun ⟨⟨p, hp⟩, _⟩ => absurd hp (hcont p)⟩

theorem transmitFrame_of_offers {fr : List Byte} {s : State} (h : offers fr s = true) :
    transmitFrame fr s = linkStep s := if_pos h

theorem isRequestRow_of_exists {i : Instr}
    (h : (∃ f a b c, i = .qreq f a b c) ∨ (∃ f l d c, i = .creq f l d c)) : i.isRequestRow := by
  rcases h with ⟨f, a, b, c, rfl⟩ | ⟨f, l, d, c, rfl⟩ <;> trivial

/-- Settles O39: each of the three ways denies one part of the offer. -/
theorem unofferedRequestFrameChangesNothing : Obligations.UnofferedRequestFrameChangesNothing := by
  intro i s hi hunoffered
  rw [exec_requestRow (isRequestRow_of_exists hi)]
  refine if_neg fun hoffers => ?_
  obtain ⟨⟨p, hcont⟩, hidx, -, hframe⟩ := offers_iff.mp hoffers
  rcases hunoffered with h | h | h
  · exact h p hcont
  · exact h hframe
  · exact h hidx

/-- A run of link steps that ends in a next state has a first one. -/
theorem linkSteps_succ_next {n : Nat} {s t : State} (h : linkSteps (n + 1) s = .next t) :
    ∃ a, linkStep s = .next a ∧ linkSteps n a = .next t := by
  cases hs : linkStep s with
  | next a => exact ⟨a, rfl, by rwa [linkSteps_succ_of_next hs] at h⟩
  | fault r => rw [linkSteps, hs] at h; cases h
  | refused r => rw [linkSteps, hs] at h; cases h

theorem wireBytes_ne_nil {i : Instr} (h : i.isRequestRow) : wireBytes i ≠ [] := by
  cases i with
  | qreq f a b c => exact List.cons_ne_nil _ _
  | creq f l d c => exact List.cons_ne_nil _ _
  | _ => exact h.elim

/-- A request frame that is offered and accepted whole: its own step is the first of WriteAll. -/
theorem exec_requestRow_sends {i : Instr} {s : State} {p : Option AnswerKind} {rest : List TxAnswer}
    (hi : i.isRequestRow) (hidx : s.seq.idx = 0) (hlen : s.result.frameLen.toNat ≤ 259)
    (hframe : s.frameBytes = wireBytes i) (hcont : s.seq.cont = .send p)
    (hanswers : s.link.txAnswers = List.replicate s.result.frameLen.toNat .ok ++ rest) :
    ∃ a, exec i s = .next a ∧
      linkSteps (s.result.frameLen.toNat - 1) a = .next (afterSend p (frameSent p rest s)) := by
  have hne : s.result.frameLen.toNat ≠ 0 := by
    intro hzero
    apply wireBytes_ne_nil hi
    rw [← hframe, State.frameBytes, hzero, Memory.readBytes_zero]
  have hrun := linkSteps_sending_all (p := p) (rest := rest) hlen hne
  rw [← hanswers, sending_zero hcont hidx] at hrun
  obtain ⟨n, hn⟩ := Nat.exists_eq_add_one_of_ne_zero hne
  rw [hn] at hrun
  obtain ⟨a, hstep, hsteps⟩ := linkSteps_succ_next hrun
  refine ⟨a, ?_, ?_⟩
  · rw [exec_requestRow hi, transmitFrame_of_offers (offers_iff.mpr ⟨⟨p, hcont⟩, hidx, hlen, hframe⟩), hstep]
  · rw [hn, Nat.add_sub_cancel, hsteps]

theorem frameSent_eq (p : Option AnswerKind) (rest : List TxAnswer) (s : State) : frameSent p rest s =
    { s with
      link := { s.link with txAnswers := rest, history := s.link.history ++ sentOk s.frameBytes }
      result := { s.result with txCount := s.result.frameLen }
      seq := (frameSent p rest s).seq } := by
  rw [frameSent, sending, List.take_of_length_le (Memory.length_readBytes _ _ _).le]
  rfl

/-- Settles O38: the frame is sent by WriteAll, and what follows the last byte is SEND's end or the parse's begin. -/
theorem offeredRequestFrameIsTransmitted : Obligations.OfferedRequestFrameIsTransmitted := by
  intro i s rest hi _ hidx hlen hframe hanswers
  have hrow := isRequestRow_of_exists hi
  refine ⟨fun hcont => ?send, fun k hcont => ?exchange⟩
  case send =>
    obtain ⟨a, hexec, hrun⟩ := exec_requestRow_sends hrow hidx hlen hframe hcont hanswers
    refine ⟨a, _, hexec, hrun, endedWith_finish _ _, ?_⟩
    rw [afterSend, frameSent_eq, hframe]
    rfl
  case exchange =>
    obtain ⟨a, hexec, hrun⟩ := exec_requestRow_sends hrow hidx hlen hframe hcont hanswers
    refine ⟨a, frameSent (some k) rest s, hexec, ?_, ?_⟩
    · rw [hrun]
      cases k <;> rfl
    · rw [← hframe]
      exact frameSent_eq _ _ _

/-! ## Answer frames on the link (R103 to R105; log 8) -/

/-- An answer row is the arrival of its bytes. -/
theorem exec_answerRow {i : Instr} (h : i.isAnswerRow) (s : State) : exec i s = receiveBytes (wireBytes i) s := by
  cases i with
  | ansQOk n p c => rfl
  | ansQErr st c => rfl
  | ansC st c => rfl
  | _ => exact h.elim

/-- Settles O40: each of the three rows hands its bytes to the receive stream. -/
theorem arrivingAnswerIsHeldInOrder : Obligations.ArrivingAnswerIsHeldInOrder := by
  intro i s hi
  have hrow : i.isAnswerRow := by
    rcases hi with ⟨n, p, c, rfl⟩ | ⟨st, c, rfl⟩ | ⟨st, c, rfl⟩ <;> trivial
  rw [exec_answerRow hrow, receiveBytes, joinStream]

end Sys2Proof.Machine

/-! How each parse ends or waits, field by field (42_parser R190 to R196): read failures and waits in head and body,
short answers, and normal query answers. -/

namespace Sys2Proof.Machine

/-! ## Read failures (R190, R255) -/

/-- The failed `RxByte` has left the stream and joined the record of link steps. -/
def takeRxFailure (rest : List RxAnswer) (s : State) : State :=
  { s with link := { s.link with rxStream := rest, history := s.link.history ++ [LinkEvent.rx .ioerr] } }

/-- A read failure after `bytes` is reported as an IO outcome. -/
def readFailed (bytes : List Byte) (rest : List RxAnswer) (s : State) : State :=
  raiseIo .receive (takeRxFailure rest (takeRx bytes (.ioerr :: rest) s))

/-- In a ReadExact a link step is one `RxByte` of it. -/
theorem linkStep_eq_rxStep {s : State} {upto : Nat} {done : State → Out} {a : RxAnswer} {rest : List RxAnswer}
    (hread : s.seq.reading = some (upto, done)) (hq : s.link.rxStream = a :: rest) :
    linkStep s = rxStep upto a rest s done := by
  unfold Sequencer.reading at hread
  split at hread
  next k hcont => cases hread; exact linkStep_head hcont hq
  next hcont => cases hread; exact linkStep_body hcont hq
  next => cases hread

theorem linkStep_of_reading_ioerr {s : State} {upto : Nat} {done : State → Out} {rest : List RxAnswer}
    (hread : s.seq.reading = some (upto, done)) (hq : s.link.rxStream = .ioerr :: rest) :
    linkStep s = .next (raiseIo .receive (takeRxFailure rest s)) :=
  linkStep_eq_rxStep hread hq

/-- ReadExact with a failure before its last byte: nothing after it is read. -/
theorem linkSteps_of_reading_fail {s : State} {upto : Nat} {done : State → Out} {bytes : List Byte}
    {rest : List RxAnswer} (hread : s.seq.reading = some (upto, done))
    (hq : s.link.rxStream = bytes.map RxAnswer.byte ++ .ioerr :: rest)
    (hlen : s.seq.idx.toNat + bytes.length < upto) (hmax : upto ≤ 258) :
    linkSteps (bytes.length + 1) s = .next (readFailed bytes rest s) := by
  rw [linkSteps_add (linkSteps_of_reading_part hread hq hlen hmax), linkSteps_one,
    linkStep_of_reading_ioerr (reading_takeRx hread _ _) rfl, readFailed]

/-- Without an answer a ReadExact waits (70_reset R288). -/
theorem linkStep_of_reading_waits {s : State} {upto : Nat} {done : State → Out}
    (hread : s.seq.reading = some (upto, done)) (hq : s.link.rxStream = []) : linkStep s = .next s := by
  unfold Sequencer.reading at hread
  unfold linkStep
  split at hread
  next k hcont => simp [hcont, hq]
  next hcont => simp [hcont, hq]
  next => cases hread

/-! ## The head (R190) -/

/-- The kind of answer PARSE_QUERY and PARSE_CONTROL expect. -/
theorem exec_parse_eq {i : Instr} (h : i = .pq ∨ i = .pc) (s : State) :
    exec i s = .next (startHead (if i = .pq then .query else .control) s) := by
  rcases h with rfl | rfl <;> rfl

theorem reading_startHead (k : AnswerKind) (s : State) : (startHead k s).seq.reading = some (3, afterHead k) := rfl

theorem idx_startHead (k : AnswerKind) (s : State) : (startHead k s).seq.idx.toNat = 0 := rfl

/-- Settles O20: ReadExact of the head stops at the failure. -/
theorem headReadFailureEndsWithIo : Obligations.HeadReadFailureEndsWithIo := by
  intro i s bytes rest hi hlen hstream
  obtain ⟨k, hexec⟩ := exec_parse hi s
  refine ⟨_, readFailed bytes rest (startHead k s), hexec, ?run, endedWith_finish _ _, rfl⟩
  case run =>
    exact linkSteps_of_reading_fail (reading_startHead k s) hstream (by rw [idx_startHead]; omega)
      (by decide)

/-- Settles O21: bytes short of the head are taken by ReadExact, which then waits. -/
theorem parseWaitsForTheHead : Obligations.ParseWaitsForTheHead := by
  intro i s bytes rest hi hlen hstream
  refine ⟨_, takeRx bytes rest (startHead _ s), exec_parse_eq hi s, ?run, fun hrest => ?waits, rfl, ?state⟩
  case run =>
    exact linkSteps_of_reading_part (reading_startHead _ s) hstream (by rw [idx_startHead]; omega)
      (by decide)
  case waits => exact linkStep_of_reading_waits (reading_takeRx (reading_startHead _ s) _ _) hrest
  case state =>
    rw [takeRx, startHead_seq, zero_add]
    rfl

/-! ## Short answers (R194, R195) -/

/-- The outcome of a short answer: its checksum is looked at before its status. -/
def shortKind (st c : Byte) : ResultKind :=
  if c ≠ 0x70 + st then .checksum else if st = 0x00 then .ok else .status

/-- STATUS_CODE after a short answer, `old` before it. -/
def shortStatus (k : AnswerKind) (st c : Byte) (old : StatusCode) : StatusCode :=
  if c ≠ 0x70 + st then old else if st = 0x00 then .completed else decodeStatus k st

/-- How a parse of kind `k` of the short answer `70 st c` leaves the state `s` it began in. -/
def shortEnd (k : AnswerKind) (st c : Byte) (rest : List RxAnswer) (s : State) : State :=
  { s with
    link := { s.link with rxStream := rest, history := s.link.history ++ received [0x70, st, c] }
    bufs := { s.bufs with rxbuf := (headTaken k 0x70 st c rest s).bufs.rxbuf }
    result := { s.result with
      hdrRaw := 0x70, statusRaw := st, b2Raw := c, rxCount := s.result.rxCount + 3
      rxCk := c, calcCk := 0x70 + st, statusCode := shortStatus k st c s.result.statusCode
      resultKind := shortKind st c, resultValid := true, busy := false }
    seq := { s.seq with phase := .idle, cont := .none, idx := 3, acc := 0x70 + st } }

section
variable {k : AnswerKind} {st c : Byte} {rest : List RxAnswer} {s : State}

theorem endedWith_shortEnd : (shortEnd k st c rest s).endedWith (shortKind st c) := ⟨rfl, rfl, rfl, rfl, rfl⟩

theorem shortKind_of_ne (h : c ≠ 0x70 + st) : shortKind st c = .checksum := if_pos h

theorem shortStatus_of_ne (h : c ≠ 0x70 + st) (old : StatusCode) : shortStatus k st c old = old := if_pos h

theorem shortKind_right (st : Byte) : shortKind st (0x70 + st) = if st = 0x00 then .ok else .status :=
  if_neg (not_not.mpr rfl)

theorem shortStatus_right (k : AnswerKind) (st : Byte) (old : StatusCode) :
    shortStatus k st (0x70 + st) old = if st = 0x00 then .completed else decodeStatus k st :=
  if_neg (not_not.mpr rfl)

/-- Three bytes in the stream that are a short answer to the running parse end it. -/
theorem linkSteps_short_eq (hshort : k = .control ∨ st ≠ 0x00)
    (hstream : s.link.rxStream = [RxAnswer.byte 0x70, .byte st, .byte c] ++ rest) :
    linkSteps 3 (startHead k s) = .next (shortEnd k st c rest s) := by
  have hacc : accumulate [0x70, st] = 0x70 + st := by rw [accumulate_eq_checksum, checksum_short]
  rw [linkSteps_startHead hstream, afterHead_of_short readBytes_headTaken hshort]
  by_cases hc : c = 0x70 + st
  · subst hc
    rw [compareChecksum_of_eq (checksum_short st), concludeStatus, shortEnd, shortKind_right, shortStatus_right,
      reportChecksums, runAcc, hacc, checksum_short]
    by_cases hst : st = 0x00
    · rw [if_pos hst, if_pos (show st = Config.stCompleted from hst), if_pos hst]
      rfl
    · rw [if_neg hst, if_neg (show ¬ st = Config.stCompleted from hst), if_neg hst]
      rfl
  · have hne : checksum [0x70, st] ≠ c := fun h => hc (h ▸ checksum_short st)
    rw [compareChecksum_of_ne hne, shortEnd, shortKind_of_ne hc, shortStatus_of_ne hc, reportChecksums, runAcc, hacc,
      checksum_short]
    rfl

end

/-- Settles O22: a status that is not Completed makes the query answer a short one, and its outcome is no OK. -/
theorem pqAbnormalAnswer : Obligations.PqAbnormalAnswer := by
  intro s st c rest hst hstream
  have hkind : shortKind st c = if c = 0x70 + st then .status else .checksum := by
    rw [shortKind, if_neg hst, ite_not]
  have hstatus : shortStatus .query st c s.result.statusCode =
      if c = 0x70 + st then decodeQry st else s.result.statusCode := by
    rw [shortStatus, if_neg hst, ite_not, decodeStatus]
  refine ⟨_, shortEnd .query st c rest s, exec_pq s, linkSteps_short_eq (.inr hst) hstream,
    hkind ▸ endedWith_shortEnd, ?state⟩
  case state =>
    rw [← hkind, ← hstatus]
    rfl

/-- Settles O27: a control answer is a short one whatever its status. -/
theorem pcAnswer : Obligations.PcAnswer := by
  intro s st c rest hstream kind
  exact ⟨_, shortEnd .control st c rest s, exec_pc s, linkSteps_short_eq (.inl rfl) hstream, endedWith_shortEnd,
    rfl⟩

/-! ## The body of a normal query answer (R194) -/

section
variable {n : Byte} {rest : List RxAnswer} {s : State}

/-- The head of a normal query answer leads into its body. -/
theorem linkSteps_to_body (hne : n ≠ 0x00)
    (hstream : s.link.rxStream = [RxAnswer.byte 0x70, .byte 0x00, .byte n] ++ rest) :
    linkSteps 3 (startHead .query s) = .next (bodyAwaited n rest s) := by
  rw [linkSteps_startHead hstream, afterHead_of_body readBytes_headTaken hne, bodyAwaited]

theorem reading_bodyAwaited : (bodyAwaited n rest s).seq.reading = some (3 + n.toNat, afterBody) := rfl

theorem idx_bodyAwaited : (bodyAwaited n rest s).seq.idx.toNat = 3 := rfl

theorem ne_zero_of_lt_toNat {m : Nat} (h : m < n.toNat) : n ≠ 0x00 := by
  rintro rfl
  simp at h

theorem three_add_toNat_le (n : Byte) : 3 + n.toNat ≤ 258 := by
  have := n.isLt
  omega

end

/-- Settles O25: the head leads into the body, whose ReadExact stops at the failure. -/
theorem pqBodyReadFailureEndsWithIo : Obligations.PqBodyReadFailureEndsWithIo := by
  intro s n bytes rest hlen hstream
  have hstream' : s.link.rxStream = [RxAnswer.byte 0x70, .byte 0x00, .byte n] ++
      (bytes.map RxAnswer.byte ++ .ioerr :: rest) := by simpa using hstream
  refine ⟨_, readFailed bytes rest (bodyAwaited n (bytes.map RxAnswer.byte ++ .ioerr :: rest) s), exec_pq s, ?run,
    endedWith_finish _ _, ?state⟩
  case run =>
    rw [show bytes.length + 4 = 3 + (bytes.length + 1) by omega,
      linkSteps_add (linkSteps_to_body (ne_zero_of_lt_toNat hlen) hstream')]
    exact linkSteps_of_reading_fail reading_bodyAwaited rfl (by rw [idx_bodyAwaited]; omega) (three_add_toNat_le n)
  case state =>
    rw [received_append, ← List.append_assoc]
    rfl

/-- Settles O26: bytes short of the announced body are taken by its ReadExact, which then waits. -/
theorem pqWaitsForTheAnnouncedBody : Obligations.PqWaitsForTheAnnouncedBody := by
  intro s n bytes rest hlen hstream
  have hstream' : s.link.rxStream = [RxAnswer.byte 0x70, .byte 0x00, .byte n] ++
      (bytes.map RxAnswer.byte ++ rest) := by simpa using hstream
  refine ⟨_, takeRx bytes rest (bodyAwaited n (bytes.map RxAnswer.byte ++ rest) s), exec_pq s, ?run,
    fun hrest => ?waits, rfl, rfl, ?state⟩
  case run =>
    rw [linkSteps_add (linkSteps_to_body (ne_zero_of_lt_toNat hlen) hstream')]
    exact linkSteps_of_reading_part reading_bodyAwaited rfl (by rw [idx_bodyAwaited]; omega) (three_add_toNat_le n)
  case waits => exact linkStep_of_reading_waits (reading_takeRx reading_bodyAwaited _ _) hrest
  case state =>
    rw [received_append, ← List.append_assoc]
    rfl

/-! ## Whole normal answers (R194) -/

/-- The bytes the checksum of a normal query answer covers. -/
def normalBody (n : Byte) (p : List Byte) : List Byte := [0x70, 0x00, n] ++ p

/-- The state in which the checksums of the whole normal answer `70 00 n p c` have been compared. -/
def normalCompared (n : Byte) (p : List Byte) (c : Byte) (rest : List RxAnswer) (s : State) : State :=
  reportChecksums (normalBody n p) c (bodyTaken n p c rest s)

/-- How a query parse of a normal answer with its right checksum leaves the state. -/
def normalEnd (n : Byte) (p : List Byte) (rest : List RxAnswer) (s : State) : State :=
  finish .ok { (normalCompared n p (checksum (normalBody n p)) rest s).setBuf .payload
      (s.bufs.payload.writeBytes 0 p) with
    result := { (normalCompared n p (checksum (normalBody n p)) rest s).result with
      plen := BitVec.ofNat 8 p.length, statusCode := .completed } }

section
variable {n c : Byte} {p : List Byte} {rest : List RxAnswer} {s : State}

theorem linkSteps_normal_right (hn : n.toNat = p.length + 1) (hstream : s.link.rxStream =
    (normalBody n p ++ [checksum (normalBody n p)]).map RxAnswer.byte ++ rest) :
    linkSteps (p.length + 4) (startHead .query s) = .next (normalEnd n p rest s) := by
  have hle : p.length ≤ 254 := by
    have := n.isLt
    omega
  rw [linkSteps_normal_answer hn hstream, ← normalBody, compareChecksum_of_eq rfl, concludePayload_of_le hle]
  rfl

theorem linkSteps_normal_wrong (hn : n.toNat = p.length + 1) (hc : c ≠ checksum (normalBody n p))
    (hstream : s.link.rxStream = (normalBody n p ++ [c]).map RxAnswer.byte ++ rest) :
    linkSteps (p.length + 4) (startHead .query s) = .next (finish .checksum (normalCompared n p c rest s)) := by
  rw [linkSteps_normal_answer hn hstream, ← normalBody, compareChecksum_of_ne hc.symm, normalCompared]

theorem endedWith_normalEnd : (normalEnd n p rest s).endedWith .ok := endedWith_finish _ _

theorem payloadBytes_normalEnd (hn : n.toNat = p.length + 1) : (normalEnd n p rest s).payloadBytes = p := by
  have hle : p.length < 256 := by
    have := n.isLt
    omega
  change (s.bufs.payload.writeBytes 0 p).readBytes 0 (BitVec.ofNat 8 p.length).toNat = p
  rw [BitVec.toNat_ofNat, Nat.mod_eq_of_lt hle, Memory.readBytes_writeBytes_same]

theorem read_payload_normalEnd {j : Nat} (h : p.length ≤ j) :
    (normalEnd n p rest s).bufs.payload.read j = s.bufs.payload.read j :=
  Memory.read_writeBytes_of_ge s.bufs.payload (by omega)

/-- What the comparison has reported, field by field. -/
theorem normalCompared_eq : normalCompared n p c rest s =
    { s with
      link := { s.link with rxStream := rest, history := s.link.history ++ received (normalBody n p ++ [c]) }
      bufs := { s.bufs with rxbuf := (normalCompared n p c rest s).bufs.rxbuf }
      result := { s.result with
        hdrRaw := 0x70, statusRaw := 0x00, b2Raw := n
        rxCount := s.result.rxCount + BitVec.ofNat 9 (p.length + 4), rxCk := c, calcCk := checksum (normalBody n p) }
      seq := (normalCompared n p c rest s).seq } := by
  rw [← rxCount_bodyTaken (n := n) (c := c) (rest := rest), normalBody, List.append_assoc, received_append,
    ← List.append_assoc]
  rfl

/-- How a right checksum ends the parse, field by field. -/
theorem normalEnd_eq : normalEnd n p rest s =
    { s with
      link := { s.link with
        rxStream := rest
        history := s.link.history ++ received (normalBody n p ++ [checksum (normalBody n p)]) }
      bufs := { s.bufs with
        rxbuf := (normalEnd n p rest s).bufs.rxbuf, payload := (normalEnd n p rest s).bufs.payload }
      result := { s.result with
        hdrRaw := 0x70, statusRaw := 0x00, b2Raw := n
        rxCount := s.result.rxCount + BitVec.ofNat 9 (p.length + 4)
        rxCk := checksum (normalBody n p), calcCk := checksum (normalBody n p)
        plen := BitVec.ofNat 8 p.length, statusCode := .completed
        resultKind := .ok, resultValid := true, busy := false }
      seq := (normalEnd n p rest s).seq } := by
  rw [normalEnd, normalCompared_eq]
  rfl

/-- R194 counts the head and the N bytes behind it. -/
theorem rxCount_normal (hn : n.toNat = p.length + 1) (count : Count) :
    count + BitVec.ofNat 9 (p.length + 4) = count + 3 + BitVec.ofNat 9 n.toNat := by
  rw [show p.length + 4 = 3 + n.toNat by omega, BitVec.ofNat_add, ← BitVec.add_assoc, BitVec.ofNat_eq_ofNat]

end

/-- Settles O23: a right checksum ends the parse with the payload, a wrong one with what was compared. -/
theorem pqNormalAnswer : Obligations.PqNormalAnswer := by
  intro s n p c rest hn hstream ck
  have hsteps : 3 + n.toNat = p.length + 4 := by omega
  rw [hsteps, ← rxCount_normal hn]
  by_cases hc : c = ck
  · subst hc
    refine ⟨_, normalEnd n p rest s, exec_pq s, linkSteps_normal_right hn hstream,
      fun _ => ⟨endedWith_normalEnd, payloadBytes_normalEnd hn, fun j => read_payload_normalEnd⟩,
      fun h => absurd rfl h, ?_⟩
    rw [if_pos rfl, if_pos rfl, if_pos rfl]
    exact normalEnd_eq
  · refine ⟨_, _, exec_pq s, linkSteps_normal_wrong hn hc hstream, fun h => absurd h hc,
      fun _ => ⟨endedWith_finish _ _, rfl⟩, ?_⟩
    rw [if_neg hc, if_neg hc, if_neg hc, normalCompared_eq]
    rfl

/-! ## Answers that arrive while a parse waits (log 8, log 9) -/

/-- A parse that waits for its first byte is where it began, and stays there when bytes arrive. -/
theorem joinStream_eq_startHead {k : AnswerKind} {s : State} (hcont : s.seq.cont = .head k) (hidx : s.seq.idx = 0)
    (bytes : List Byte) : joinStream bytes s = startHead k (joinStream bytes s) := by
  rw [startHead, joinStream_seq, ← hcont, ← hidx]
  rfl

theorem rxStream_joinStream {s : State} (hempty : s.link.rxStream = []) (bytes : List Byte) :
    (joinStream bytes s).link.rxStream = bytes.map RxAnswer.byte ++ [] := by
  rw [joinStream_link, hempty, List.nil_append, List.append_nil]

/-- Settles O41: the bytes join an empty stream, and the parse goes on as from its beginning. -/
theorem normalAnswerEndsAWaitingQueryParse : Obligations.NormalAnswerEndsAWaitingQueryParse := by
  intro n p s hn hcont hidx hempty c
  have hrun := linkSteps_normal_right (s := joinStream (normalBody n p ++ [c]) s) hn (rxStream_joinStream hempty _)
  rw [← joinStream_eq_startHead hcont hidx] at hrun
  have hsteps : 3 + n.toNat = p.length + 4 := by omega
  refine ⟨joinStream (normalBody n p ++ [c]) s, _, rfl, hsteps ▸ hrun, endedWith_normalEnd,
    payloadBytes_normalEnd hn, fun j => read_payload_normalEnd, ?state⟩
  case state =>
    rw [show n.toNat + 3 = p.length + 4 by omega, normalEnd_eq, ← hempty]
    rfl

/-- Settles O42: the bytes join an empty stream, and each parse reads them by its own table. -/
theorem shortAnswerEndsAWaitingParse : Obligations.ShortAnswerEndsAWaitingParse := by
  intro st s hidx hempty
  have hrun {k : AnswerKind} (hcont : s.seq.cont = .head k) (hshort : k = .control ∨ st ≠ 0x00) :
      linkSteps 3 (joinStream [0x70, st, 0x70 + st] s) =
        .next (shortEnd k st (0x70 + st) [] (joinStream [0x70, st, 0x70 + st] s)) := by
    rw [joinStream_eq_startHead hcont hidx]
    exact linkSteps_short_eq hshort (rxStream_joinStream hempty [0x70, st, 0x70 + st])
  refine ⟨fun hcont hst => ?query, fun hcont => ?control⟩
  case query =>
    have hkind : shortKind st (0x70 + st) = .status := (shortKind_right st).trans (if_neg hst)
    refine ⟨joinStream [0x70, st, 0x70 + st] s, _, rfl, hrun hcont (.inr hst), hkind ▸ endedWith_shortEnd, ?_⟩
    rw [shortEnd, hkind, shortStatus_right, if_neg hst, ← hempty]
    rfl
  case control =>
    refine ⟨joinStream [0x70, st, 0x70 + st] s, _, rfl, hrun hcont (.inl rfl),
      shortKind_right st ▸ endedWith_shortEnd, ?_⟩
    rw [shortEnd, shortKind_right, shortStatus_right, ← hempty]
    rfl

end Sys2Proof.Machine

/-! The exchanges as build, send and parse (43_exchange R230, R231): the request sent, a write failure, and the answers
that complete them. -/

namespace Sys2Proof.Machine

/-! ## The build stage of an exchange -/

/-- The state after the build stage has stored `fr`. -/
def built (fr : List Byte) (s : State) : State :=
  setFrameLen (BitVec.ofNat 9 fr.length) (runAcc fr.dropLast (s.setBuf .frame (s.bufs.frame.writeBytes 0 fr)))

section
variable {fr : List Byte} {s : State}

theorem buildStage_eq_built {next : State → Out} (h : fr.length ≤ 259) : buildStage fr s next = next (built fr s) :=
  buildStage_of_le h

theorem frameLen_built (h : fr.length ≤ 259) : (built fr s).result.frameLen.toNat = fr.length := by
  rw [built, setFrameLen_result, BitVec.toNat_ofNat, Nat.mod_eq_of_lt (by omega)]

theorem frameBytes_built (h : fr.length ≤ 259) : (built fr s).frameBytes = fr := by
  rw [State.frameBytes, frameLen_built h]
  exact Memory.readBytes_writeBytes_same s.bufs.frame 0 fr

theorem read_frame_built {j : Nat} (h : fr.length ≤ j) :
    (built fr s).bufs.frame.read j = s.bufs.frame.read j :=
  Memory.read_writeBytes_of_ge s.bufs.frame (by omega)

end

/-- `i` is an exchange of kind `k` whose request frame is `fr`. -/
structure IsExchange (i : Instr) (k : AnswerKind) (fr : List Byte) : Prop where
  length_pos : 0 < fr.length
  length_le : fr.length ≤ 259
  exec_eq : ∀ s, exec i s = buildStage fr s (sendStage (some k))

/-- The state in which an exchange of kind `k` has sent its request `fr`, with the answers `rest` left. -/
def requestSent (k : AnswerKind) (fr : List Byte) (rest : List TxAnswer) (s : State) : State :=
  frameSent (some k) rest (built fr s)

section
variable {k : AnswerKind} {fr : List Byte} {rest : List TxAnswer} {s : State}

theorem link_requestSent (h : fr.length ≤ 259) : (requestSent k fr rest s).link =
    { s.link with txAnswers := rest, history := s.link.history ++ sentOk fr } := by
  rw [requestSent, frameSent_eq, frameBytes_built h]
  rfl

theorem frameBytes_requestSent (h : fr.length ≤ 259) : (requestSent k fr rest s).frameBytes = fr :=
  frameBytes_built (s := s) h

theorem read_frame_requestSent {j : Nat} (h : fr.length ≤ j) :
    (requestSent k fr rest s).bufs.frame.read j = s.bufs.frame.read j :=
  read_frame_built h

theorem requestSent_eq (h : fr.length ≤ 259) : requestSent k fr rest s =
    { s with
      link := { s.link with txAnswers := rest, history := s.link.history ++ sentOk fr }
      bufs := { s.bufs with frame := (requestSent k fr rest s).bufs.frame }
      result := { s.result with frameLen := BitVec.ofNat 9 fr.length, txCount := BitVec.ofNat 9 fr.length }
      seq := (requestSent k fr rest s).seq } := by
  rw [← link_requestSent (k := k) h]
  rfl

variable {i : Instr}

/-- An exchange starts at byte 0 of its request. -/
theorem exec_exchange (h : IsExchange i k fr) (s : State) :
    exec i s = .next (sending (some k) 0 s.link.txAnswers (built fr s)) := by
  have hlen := frameLen_built (s := s) h.length_le
  have hpos := h.length_pos
  rw [h.exec_eq, buildStage_eq_built h.length_le,
    sendStage_eq_sending (hlen.trans_le h.length_le) (by omega)]
  rfl

/-- When the request is accepted whole the parse of the exchange's kind begins. -/
theorem linkSteps_exchange_sent (h : IsExchange i k fr)
    (hanswers : s.link.txAnswers = List.replicate fr.length .ok ++ rest) :
    linkSteps fr.length (sending (some k) 0 s.link.txAnswers (built fr s)) =
      .next (startHead k (requestSent k fr rest s)) := by
  have hlen := frameLen_built (s := s) h.length_le
  have hpos := h.length_pos
  have hrun := linkSteps_sending_all (p := some k) (rest := rest) (hlen.trans_le h.length_le) (by omega)
  rw [hlen, ← hanswers] at hrun
  exact hrun

/-- How a write failure at byte `j` of its request leaves an exchange. -/
def requestFailed (k : AnswerKind) (fr : List Byte) (j : Nat) (rest : List TxAnswer) (s : State) : State :=
  sendFailed (some k) j rest (built fr s)

theorem linkSteps_exchange_failed (h : IsExchange i k fr) {j : Nat} (hj : j < fr.length)
    (hanswers : s.link.txAnswers = List.replicate j .ok ++ .ioerr :: rest) :
    linkSteps (j + 1) (sending (some k) 0 s.link.txAnswers (built fr s)) = .next (requestFailed k fr j rest s) := by
  have hlen := frameLen_built (s := s) h.length_le
  rw [hanswers]
  exact linkSteps_sending_fail (hlen.trans_le h.length_le) (by omega)

theorem requestFailed_eq (h : fr.length ≤ 259) {j : Nat} {b : Byte} (hb : fr[j]? = some b) :
    requestFailed k fr j rest s =
      { s with
        link := { s.link with
          txAnswers := rest, history := s.link.history ++ sentOk (fr.take j) ++ [LinkEvent.tx b .ioerr] }
        bufs := { s.bufs with frame := (requestFailed k fr j rest s).bufs.frame }
        result := { s.result with
          frameLen := BitVec.ofNat 9 fr.length, txCount := BitVec.ofNat 9 j, ioDir := .transmit
          resultKind := .io, resultValid := true, busy := false }
        seq := (requestFailed k fr j rest s).seq } := by
  have hframe := frameBytes_built (s := s) h
  have hfailed := sendFailed_eq (p := some k) (rest := rest) (s := built fr s) (k := j) (b := b) (by rw [hframe, hb])
  rw [hframe] at hfailed
  exact hfailed

/-- How a write failure ends an exchange of any kind (R255, R258). -/
theorem exchange_fails (h : IsExchange i k fr) {j : Nat} {b : Byte} (hb : fr[j]? = some b)
    (hanswers : s.link.txAnswers = List.replicate j .ok ++ .ioerr :: rest) :
    ∃ a t : State, exec i s = .next a ∧ linkSteps (j + 1) a = .next t ∧ t.endedWith .io ∧ t.frameBytes = fr ∧
      (∀ m, fr.length ≤ m → t.bufs.frame.read m = s.bufs.frame.read m) ∧
      t = { s with
        link := { s.link with
          txAnswers := rest, history := s.link.history ++ sentOk (fr.take j) ++ [LinkEvent.tx b .ioerr] }
        bufs := { s.bufs with frame := t.bufs.frame }
        result := { s.result with
          frameLen := BitVec.ofNat 9 fr.length, txCount := BitVec.ofNat 9 j, ioDir := .transmit
          resultKind := .io, resultValid := true, busy := false }
        seq := t.seq } := by
  obtain ⟨hj, -⟩ := List.getElem?_eq_some_iff.mp hb
  exact ⟨_, requestFailed k fr j rest s, exec_exchange h s, linkSteps_exchange_failed h hj hanswers,
    endedWith_sendFailed, frameBytes_built (s := s) h.length_le, fun _ => read_frame_built,
    requestFailed_eq h.length_le hb⟩

/-- With its request accepted an exchange goes on as the parse of its kind (R230, R231). -/
theorem exchange_sends (h : IsExchange i k fr)
    (hanswers : s.link.txAnswers = List.replicate fr.length .ok ++ rest) :
    ∃ a t : State, exec i s = .next a ∧ linkSteps fr.length a = .next (startHead k t) ∧ t.frameBytes = fr ∧
      (∀ m, fr.length ≤ m → t.bufs.frame.read m = s.bufs.frame.read m) ∧
      t = { s with
        link := { s.link with txAnswers := rest, history := s.link.history ++ sentOk fr }
        bufs := { s.bufs with frame := t.bufs.frame }
        result := { s.result with frameLen := BitVec.ofNat 9 fr.length, txCount := BitVec.ofNat 9 fr.length }
        seq := t.seq } :=
  ⟨_, requestSent k fr rest s, exec_exchange h s, linkSteps_exchange_sent h hanswers,
    frameBytes_requestSent h.length_le, fun _ => read_frame_requestSent, requestSent_eq h.length_le⟩

end

/-! ## The two exchanges -/

theorem isExchange_xq (f d1 d2 : Byte) :
    IsExchange (.xq f d1 d2) .query [0x83, 0x00, f, d1, d2, 0x83 + f + d1 + d2] := by
  refine ⟨by simp, by simp, fun s => ?_⟩
  rw [← checksum_query]
  rfl

section
variable {f : Byte} {dlen : Count} {data : List Byte}

theorem length_of_wf_xc (h : (Instr.xc f dlen data).wf = true) : data.length = latchedLength dlen := by
  simpa [Instr.wf] using h

theorem length_data_of_wf_xc (h : (Instr.xc f dlen data).wf = true) (hle : dlen.toNat ≤ 254) :
    data.length = dlen.toNat :=
  (length_of_wf_xc h).trans (latchedLength_of_le (by omega))

theorem length_controlBody_checksum (h : (Instr.xc f dlen data).wf = true) (hle : dlen.toNat ≤ 254) :
    (controlBody f dlen data ++ [checksum (controlBody f dlen data)]).length = dlen.toNat + 5 := by
  rw [List.length_append, length_controlBody (length_data_of_wf_xc h hle), List.length_singleton]

theorem isExchange_xc (h : (Instr.xc f dlen data).wf = true) (hle : dlen.toNat ≤ 254) :
    IsExchange (.xc f dlen data) .control (controlBody f dlen data ++ [checksum (controlBody f dlen data)]) := by
  have hlen := length_controlBody_checksum h hle
  refine ⟨by omega, by omega, fun s => (execXc_of_le hle).trans ?_⟩
  rw [operandData_of_le (length_of_wf_xc h) (by omega), controlFrame_eq_withChecksum (length_data_of_wf_xc h hle),
    withChecksum]

theorem execXc_of_gt (h : 254 < dlen.toNat) (s : State) : execXc f dlen data s = refuseLength s :=
  if_pos h

end

/-- Settles O30: six bytes are sent and the query parse begins. -/
theorem xqSendsThenParses : Obligations.XqSendsThenParses := by
  intro f d1 d2 s rest hanswers
  exact exchange_sends (isExchange_xq f d1 d2) hanswers

/-- Settles O31: LDLEN + 5 bytes are sent and the control parse begins; above 254 the length check comes first. -/
theorem xcSendsThenParsesOrLength : Obligations.XcSendsThenParsesOrLength := by
  intro f dlen data s hwf
  refine ⟨fun rest hle hanswers => ?sends, fun hgt => ?length⟩
  case sends =>
    have hlen := length_controlBody_checksum hwf hle
    rw [← hlen] at hanswers
    have hsends := exchange_sends (isExchange_xc hwf hle) hanswers
    rw [hlen, ofNat_toNat_add_five] at hsends
    exact hsends
  case length => exact execXc_of_gt hgt s

/-- Settles O32: both exchanges stop in their send stage, before any parse. -/
theorem exchangeWriteFailureReadsNothing : Obligations.ExchangeWriteFailureReadsNothing := by
  refine ⟨?query, ?control⟩
  case query =>
    intro f d1 d2 s k b rest fr hb hanswers
    exact exchange_fails (isExchange_xq f d1 d2) hb hanswers
  case control =>
    intro f dlen data s k b rest hwf hle fr hb hanswers
    have hfails := exchange_fails (isExchange_xc hwf hle) hb hanswers
    rw [length_controlBody_checksum hwf hle, ofNat_toNat_add_five] at hfails
    exact hfails

/-! ## Completed exchanges (R230, R231 with 42_parser R197) -/

section
variable {k : AnswerKind} {fr : List Byte} {rest : List TxAnswer} {i : Instr} {s t : State} {n : Nat}

/-- The parse of an exchange begins with the request sent and the receive stream as it was, and keeps the frame. -/
theorem linkSteps_exchange_parse (h : IsExchange i k fr)
    (hanswers : s.link.txAnswers = List.replicate fr.length .ok ++ rest)
    (hparse : linkSteps n (startHead k (requestSent k fr rest s)) = .next t) :
    ∃ a, exec i s = .next a ∧ linkSteps (fr.length + n) a = .next t ∧ t.frameBytes = fr ∧
      ∀ m, fr.length ≤ m → t.bufs.frame.read m = s.bufs.frame.read m := by
  have hsame := linkSteps_keepsFrame n hparse
  refine ⟨_, exec_exchange h s, (linkSteps_add (linkSteps_exchange_sent h hanswers)).trans hparse, ?frame, ?above⟩
  case frame => exact hsame.frameBytes_eq.trans (frameBytes_requestSent (k := k) (rest := rest) (s := s) h.length_le)
  case above =>
    intro m hm
    rw [hsame.frame]
    exact read_frame_requestSent (k := k) (rest := rest) hm

end

/-- Settles O33: the request is sent, and then the normal answer is parsed from where the send left the state. -/
theorem xqCompletesOnAWellFormedAnswer : Obligations.XqCompletesOnAWellFormedAnswer := by
  intro f d1 d2 s p tx rest hle htx hrx fr ck
  have hex : IsExchange (.xq f d1 d2) .query fr := isExchange_xq f d1 d2
  have hn : (BitVec.ofNat 8 (p.length + 1)).toNat = p.length + 1 := by
    rw [BitVec.toNat_ofNat, Nat.mod_eq_of_lt (by omega)]
  have hsent := requestSent_eq (k := .query) (rest := tx) (s := s) hex.length_le
  have hstream : (requestSent .query fr tx s).link.rxStream = (ansQ p).map RxAnswer.byte ++ rest := by
    rw [hsent, hrx]
  have hparse := linkSteps_normal_right hn hstream
  obtain ⟨a, hexec, hrun, hframe, habove⟩ := linkSteps_exchange_parse hex htx hparse
  refine ⟨a, _, hexec, hrun, endedWith_normalEnd, hframe, payloadBytes_normalEnd hn, habove, fun j hj => ?payload,
    ?state⟩
  case payload => rw [read_payload_normalEnd hj, hsent]
  case state =>
    refine normalEnd_eq.trans ?_
    rw [hsent]
    rfl

/-- Settles O34: the request is sent, and then the short answer is parsed from where the send left the state. -/
theorem xcCompletesOnAWellFormedAnswer : Obligations.XcCompletesOnAWellFormedAnswer := by
  intro f dlen data s st tx rest hwf hle htx hrx fr
  have hex : IsExchange (.xc f dlen data) .control fr := isExchange_xc hwf hle
  have hlen : fr.length = dlen.toNat + 5 := length_controlBody_checksum hwf hle
  have hsent := requestSent_eq (k := .control) (rest := tx) (s := s) hex.length_le
  have hstream : (requestSent .control fr tx s).link.rxStream =
      [RxAnswer.byte 0x70, .byte st, .byte (0x70 + st)] ++ rest := by
    rw [hsent, hrx]
    rfl
  rw [← hlen] at htx
  have hparse := linkSteps_short_eq (k := .control) (.inl rfl) hstream
  obtain ⟨a, hexec, hrun, hframe, habove⟩ := linkSteps_exchange_parse hex htx hparse
  rw [hlen] at hrun habove
  refine ⟨a, _, hexec, hrun, shortKind_right st ▸ endedWith_shortEnd, hframe, habove, ?state⟩
  case state =>
    rw [← ofNat_toNat_add_five, ← hlen, shortEnd, shortKind_right, shortStatus_right, hsent]
    rfl

end Sys2Proof.Machine

/-! The step event by event (10_state R34, R43, 60_exceptions R259; log 7, log 8, log 13): what an acceptance runs, that
the operation in progress takes one link step, and how the device's bytes arrive. -/

namespace Sys2Proof.Machine

section
variable {s : State}

theorem step_of_acceptsNext (h : s.acceptsNext) : step s = exec (latchedInstr (accept s)) (accept s) := by
  obtain ⟨hreset, hline, hbusy, hvalid⟩ := h
  simp [step, turn, acceptStep, hreset, hline, hbusy, hvalid]

theorem step_of_resumesNext (h : s.resumesNext) : step s = resumeStep s := by
  obtain ⟨hreset, hline, hbusy⟩ := h
  simp [step, turn, hreset, hline, hbusy]

theorem step_of_line (hreset : s.resetIn = false) (hline : s.link.line ≠ []) : step s = arrivalStep s := by
  simp [step, turn, hreset, hline]

end

/-! ## Acceptance (R34, R43) -/

theorem Memory.take_readBytes (m : Memory) (i : Nat) {n len : Nat} (h : n ≤ len) :
    (m.readBytes i len).take n = m.readBytes i n := by
  apply List.ext_getElem?
  intro j
  rw [List.getElem?_take, Memory.getElem?_readBytes, Memory.getElem?_readBytes]
  by_cases hj : j < n
  · simp [hj, hj.trans_le h]
  · simp [hj]

/-- Of DATA a request reads the bytes its DLEN latches and no more. -/
theorem decodeRequest_congr {req0 req1 : HostWord} {data data' : List Byte}
    (h : takeBytes (latchedLength (reqDlen req1)) data = takeBytes (latchedLength (reqDlen req1)) data') :
    decodeRequest req0 req1 data = decodeRequest req0 req1 data' := by
  rw [decodeRequest, decodeRequest, decodeFields, decodeFields, h]

/-- The operation in the latch is the one on the port. -/
theorem latchedInstr_accept (s : State) : latchedInstr (accept s) =
    decodeRequest s.port.req0 s.port.req1 (s.port.data.readBytes 0 (latchedLength (reqDlen s.port.req1))) := by
  rw [latchedInstr, accept_latch, accept_ldata, decodeRequest]
  congr 1
  have hsame := Memory.readBytes_writeBytes_same s.bufs.ldata 0
    (s.port.data.readBytes 0 (latchedLength (reqDlen s.port.req1)))
  rwa [Memory.length_readBytes] at hsame

/-- Settles O43: acceptance clears the record field by field, and the step runs what is latched. -/
theorem acceptanceClearsTheRecord : Obligations.AcceptanceClearsTheRecord := by
  intro s haccepts
  exact ⟨accept s, step_of_acceptsNext haccepts, rfl⟩

/-- Settles O45: the latched bytes are the first of the 259 the decoder is given. -/
theorem stepRunsTheDecodedRequest : Obligations.StepRunsTheDecodedRequest := by
  intro s i haccepts hdecode
  rw [decode, Except.ok.injEq] at hdecode
  have hle : latchedLength (reqDlen s.port.req1) ≤ 259 := latchedLength_le _
  have hbytes : takeBytes (latchedLength (reqDlen s.port.req1))
      (s.port.data.readBytes 0 (latchedLength (reqDlen s.port.req1))) =
        takeBytes (latchedLength (reqDlen s.port.req1)) (s.port.data.readBytes 0 259) := by
    rw [takeBytes_of_length_eq (Memory.length_readBytes _ _ _), takeBytes_of_le (by rwa [Memory.length_readBytes]),
      Memory.take_readBytes _ _ hle]
  rw [step_of_acceptsNext haccepts, latchedInstr_accept, decodeRequest_congr hbytes, hdecode]

/-! ## The operation in progress (R18; log 8) -/

theorem offeredFrame_eq_some {s : State} {i : Instr} : offeredFrame s = some i ↔
    (∃ p, s.seq.cont = .send p) ∧ s.seq.idx = 0 ∧ s.result.frameLen.toNat ≤ 259 ∧
      decode (.frame .request s.frameBytes) = .ok i := by
  unfold offeredFrame
  split
  next p hcont =>
    rw [Option.ite_none_right_eq_some, and_assoc]
    refine ⟨fun ⟨hidx, hlen, hdecode⟩ => ⟨⟨p, hcont⟩, hidx, hlen, ?_⟩, fun ⟨_, hidx, hlen, hdecode⟩ =>
      ⟨hidx, hlen, ?_⟩⟩
    · cases hread : decode (.frame .request (s.bufs.frame.readBytes 0 s.result.frameLen.toNat)) with
      | error e => rw [hread] at hdecode; cases hdecode
      | ok j => rw [hread] at hdecode; cases hdecode; rfl
    · rw [hdecode]
      rfl
  next hcont => exact ⟨nofun, fun ⟨⟨p, hp⟩, _⟩ => absurd hp (hcont p)⟩

theorem wireBytes_of_encode {i : Instr} {dir : FrameDir} {bytes : List Byte} (h : encode i = .frame dir bytes) :
    wireBytes i = bytes := by
  rw [wireBytes, h]

/-- The frame a send stage stands before is the one it offers, so running it is the link step. -/
theorem exec_offeredFrame {s : State} {i : Instr} (h : offeredFrame s = some i) : exec i s = linkStep s := by
  obtain ⟨hcont, hidx, hlen, hdecode⟩ := offeredFrame_eq_some.mp h
  obtain ⟨hrow, hencode⟩ := decodeRequestFrame_ok hdecode
  rw [exec_requestRow hrow, wireBytes_of_encode hencode,
    transmitFrame_of_offers (offers_iff.mpr ⟨hcont, hidx, hlen, rfl⟩)]

theorem resumeStep_eq_linkStep (s : State) : resumeStep s = linkStep s := by
  unfold resumeStep
  split
  next i hoffered => exact exec_offeredFrame hoffered
  next => rfl

theorem step_eq_linkStep {s : State} (h : s.resumesNext) : step s = linkStep s :=
  (step_of_resumesNext h).trans (resumeStep_eq_linkStep s)

/-! ## Arrivals (20_memory R76; log 8) -/

/-- Some of the bytes on the line have arrived, and `rest` is left there. -/
def arrived (bytes rest : List Byte) (s : State) : State :=
  joinStream bytes { s with link := { s.link with line := rest } }

/-- One arrival takes bytes from the front of the line, be they a frame or one byte. -/
theorem arrivalStep_eq {s : State} (hline : s.link.line ≠ []) :
    ∃ bytes rest, s.link.line = bytes ++ rest ∧ arrivalStep s = .next (arrived bytes rest s) := by
  unfold arrivalStep
  split
  next i t harriving =>
    unfold arrivingFrame at harriving
    split at harriving
    next j rest hdecode =>
      cases harriving
      obtain ⟨hrow, front, hencode, hfront⟩ := decodeAnswer_ok hdecode
      refine ⟨front, rest, hfront, ?_⟩
      rw [exec_answerRow hrow, wireBytes_of_encode hencode]
      rfl
    next => cases harriving
  next =>
    unfold arrivingByte
    split
    next hnil => exact absurd hnil hline
    next b more hcons => exact ⟨[b], more, hcons, rfl⟩

theorem decodeAnswer_of_decode {k : AnswerKind} {bytes : List Byte} {i : Instr}
    (h : decode (.frame (.answer k) bytes) = .ok i) : decodeAnswer k bytes = .ok (i, []) := by
  rw [decode] at h
  split at h
  next j hans => cases h; exact hans
  next => cases h
  next => cases h

/-- Settles O46: `resumeStep` and `arrivalStep` look for just these frames. -/
theorem stepRunsTheDecodedFrame : Obligations.StepRunsTheDecodedFrame := by
  refine ⟨fun s i p hresumes hcont hidx hlen hdecode => ?request, fun s i hreset hwf hencode => ?answer⟩
  case request =>
    have hoffered := offeredFrame_eq_some.mpr ⟨⟨p, hcont⟩, hidx, hlen, hdecode⟩
    rw [step_eq_linkStep hresumes, exec_offeredFrame hoffered]
  case answer =>
    have hdecode := decodeOfEncodeIsIdentity i hwf
    rw [hencode] at hdecode
    have hans := decodeAnswer_of_decode hdecode
    have hline : s.link.line ≠ [] := by
      intro hnil
      rw [hnil] at hans
      cases hans
    rw [step_of_line hreset hline, arrivalStep, arrivingFrame, hans]

/-! ## Waiting (70_reset R288; log 6) -/

theorem core_run_succ (n : Nat) {s t : State} (h : step s = .next t) :
    Host.Core.run core (n + 1) s = Host.Core.run core n t := by
  have hcore : core.step s = .next t := h
  simp only [Host.Core.run, hcore]

/-- The running operation waits for an answer that is not there. -/
theorem linkStep_of_unanswered {s : State}
    (h : (∃ p, s.seq.cont = .send p ∧ s.link.txAnswers = []) ∨
      (∃ k, s.seq.cont = .head k ∧ s.link.rxStream = []) ∨ (s.seq.cont = .body ∧ s.link.rxStream = [])) :
    linkStep s = .next s := by
  rcases h with ⟨p, hcont, hq⟩ | ⟨k, hcont, hq⟩ | ⟨hcont, hq⟩ <;> simp [linkStep, hcont, hq]

/-- Settles O49: the step is the link step, which does nothing, however often. -/
theorem unansweredOperationWaitsForever : Obligations.UnansweredOperationWaitsForever := by
  intro s n hresumes hwaits
  have hstep : step s = .next s := (step_eq_linkStep hresumes).trans (linkStep_of_unanswered hwaits)
  induction n with
  | zero => rfl
  | succ n ih => rw [core_run_succ n hstep, ih]

/-! ## A request presented to an idle block (R33, R43) -/

/-- What a well-formed operation writes into DATA is as long as the DLEN it writes latches. -/
theorem length_data_of_encode {i : Instr} {req0 req1 : HostWord} {data : List Byte} (hwf : i.wf = true)
    (h : encode i = .request req0 req1 data) : data.length = latchedLength (reqDlen req1) := by
  cases i with
  | chk _ _ | bc _ _ _ | xc _ _ _ =>
    cases h
    rw [reqDlen_packReq1]
    simpa [Instr.wf] using hwf
  | bq _ _ _ | send | pq | pc | xq _ _ _ =>
    cases h
    rw [reqDlen_packReq1]
    rfl
  | _ => cases h

/-- An operation issued to an idle block is run on the accepted state. -/
theorem issue_of_idle {i : Instr} {req0 req1 : HostWord} {data : List Byte} {s : State} (hwf : i.wf = true)
    (hencode : encode i = .request req0 req1 data) (hreset : s.resetIn = false) (hline : s.link.line = [])
    (hbusy : s.result.busy = false) : issue i s = exec i (accept (hostPresent req0 req1 data s)) := by
  have hlen := length_data_of_encode hwf hencode
  have hmax : data.take Config.dataMax = data :=
    List.take_of_length_le (hlen.trans_le (latchedLength_le _))
  have hdata : (hostPresent req0 req1 data s).port.data.readBytes 0
      (latchedLength (reqDlen (hostPresent req0 req1 data s).port.req1)) = data := by
    simp only [hostPresent_port, hmax, ← hlen, Memory.readBytes_writeBytes_same]
  have hdecode := decodeOfEncodeIsIdentity i hwf
  rw [hencode, decode, Except.ok.injEq] at hdecode
  have haccepts : (hostPresent req0 req1 data s).acceptsNext := ⟨hreset, hline, hbusy, rfl⟩
  rw [issue, hencode]
  refine (step_of_acceptsNext haccepts).trans ?_
  rw [latchedInstr_accept, hdata, hostPresent_port, hdecode]

/-- Settles O51: reset empties FRAME_LEN, so the send stage of SEND ends at once. -/
theorem sendAfterResetTransmitsNothing : Obligations.SendAfterResetTransmitsNothing := by
  intro s hreset hline
  have hissue := issue_of_idle (i := .send) (s := resetBlock s) rfl rfl rfl hline rfl
  rw [exec_send, sendStage_of_empty rfl] at hissue
  exact ⟨resetBlock s, _, step_of_resetIn hreset, hissue, endedWith_finish _ _, rfl, rfl⟩

end Sys2Proof.Machine

/-! What the work of an operation neither reads nor writes (10_state R34, 20_memory R81): a change of it commutes with
the work. From this one fact come that a running operation ignores the port and the latch, that it leaves them and the
rest of the link alone, and that answers may come in pieces. -/

namespace Sys2Proof.Machine

/-! ## Changes beside the work -/

/-- A change of fields that the parse stage neither reads nor writes, each by itself. TX_COUNT is one of them: only the
send stage has it. -/
structure Aside where
  port    : RequestPort → RequestPort
  latch   : RequestLatch → RequestLatch
  ldata   : Memory → Memory
  link    : Transport → Transport
  txCount : Count → Count
  resetIn : Bool → Bool
  draws   : Nat → Nat

/-- The state changed so. -/
def Aside.apply (g : Aside) (s : State) : State where
  port    := g.port s.port
  latch   := g.latch s.latch
  result  := { s.result with txCount := g.txCount s.result.txCount }
  bufs    := { s.bufs with ldata := g.ldata s.bufs.ldata }
  seq     := s.seq
  link    := g.link s.link
  resetIn := g.resetIn s.resetIn
  draws   := g.draws s.draws

/-- This piece of the machine does with the changed state what it does with the state. -/
def Aside.Passes (g : Aside) (f : State → Out) : Prop :=
  ∀ s, f (g.apply s) = mapNext g.apply (f s)

section
variable (g : Aside) {s : State}

theorem buf_apply {b : Buffer} (h : b ≠ .ldata) : (g.apply s).buf b = s.buf b := by
  cases b with
  | ldata => exact absurd rfl h
  | frame => rfl
  | rxbuf => rfl
  | payload => rfl

theorem setBuf_apply {b : Buffer} (h : b ≠ .ldata) (m : Memory) :
    (g.apply s).setBuf b m = g.apply (s.setBuf b m) := by
  cases b with
  | ldata => exact absurd rfl h
  | frame => rfl
  | rxbuf => rfl
  | payload => rfl

theorem withRead_apply {b : Buffer} (hb : b ≠ .ldata) {i n : Nat} {use use' : List Byte → Out}
    (huse : ∀ bytes, use' bytes = mapNext g.apply (use bytes)) :
    withRead b i n (g.apply s) use' = mapNext g.apply (withRead b i n s use) := by
  unfold withRead
  rw [buf_apply g hb]
  split
  · exact huse _
  · rfl

theorem withWrite_apply {b : Buffer} (hb : b ≠ .ldata) {i : Nat} {v : List Byte} {next next' : State → Out}
    (hnext : ∀ t, next' (g.apply t) = mapNext g.apply (next t)) :
    withWrite b i v (g.apply s) next' = mapNext g.apply (withWrite b i v s next) := by
  unfold withWrite
  rw [buf_apply g hb, setBuf_apply g hb]
  split
  · exact hnext _
  · rfl

end

/-! ## The parse stage passes every such change -/

/-- What three head bytes can be for a parse of kind `k`: a wrong header, a short answer, a normal query answer of
length 0, or one with a body (R191, R194 to R196). -/
theorem head_cases (k : AnswerKind) (m : Memory) : ∃ h0 h1 h2, m.readBytes 0 3 = [h0, h1, h2] ∧
    (h0 ≠ 0x70 ∨
      (h0 = 0x70 ∧ (k = .control ∨ h1 ≠ 0x00)) ∨
      (k = .query ∧ h0 = 0x70 ∧ h1 = 0x00 ∧ h2 = 0x00) ∨
      (k = .query ∧ h0 = 0x70 ∧ h1 = 0x00 ∧ h2 ≠ 0x00)) := by
  refine ⟨m.read 0, m.read 1, m.read 2, rfl, ?_⟩
  by_cases hheader : m.read 0 = 0x70
  · cases k with
    | control => exact .inr (.inl ⟨hheader, .inl rfl⟩)
    | query =>
      by_cases hst : m.read 1 = 0x00
      · by_cases hlen : m.read 2 = 0x00
        · exact .inr (.inr (.inl ⟨rfl, hheader, hst, hlen⟩))
        · exact .inr (.inr (.inr ⟨rfl, hheader, hst, hlen⟩))
      · exact .inr (.inl ⟨hheader, .inr hst⟩)
  · exact .inl hheader

section
variable (g : Aside)

theorem compareChecksum_apply {covered : List Byte} {c : Byte} {s : State} {pass : State → Out}
    (hpass : g.Passes pass) :
    compareChecksum covered c (g.apply s) pass = mapNext g.apply (compareChecksum covered c s pass) := by
  by_cases hc : checksum covered = c
  · rw [compareChecksum_of_eq hc, compareChecksum_of_eq hc]
    exact hpass (reportChecksums covered c s)
  · rw [compareChecksum_of_ne hc, compareChecksum_of_ne hc]
    rfl

theorem concludeStatus_passes (k : AnswerKind) (st : Byte) : g.Passes (concludeStatus k st) := by
  intro s
  unfold concludeStatus
  split <;> rfl

theorem afterBody_passes : g.Passes afterBody := by
  intro s
  refine withRead_apply g (by decide) fun buf => compareChecksum_apply g fun t => ?_
  exact withWrite_apply g (by decide) fun u => rfl

theorem afterHead_passes (k : AnswerKind) : g.Passes (afterHead k) := by
  intro s
  obtain ⟨h0, h1, h2, hbuf, hcases⟩ := head_cases k s.bufs.rxbuf
  have hbuf' : (g.apply s).bufs.rxbuf.readBytes 0 3 = [h0, h1, h2] := hbuf
  rcases hcases with hne | ⟨rfl, hshort⟩ | ⟨rfl, rfl, rfl, rfl⟩ | ⟨rfl, rfl, rfl, hlen⟩
  · rw [afterHead_of_wrong_header hbuf hne, afterHead_of_wrong_header hbuf' hne]
    rfl
  · rw [afterHead_of_short hbuf hshort, afterHead_of_short hbuf' hshort]
    exact compareChecksum_apply g (s := reportHead 0x70 h1 h2 s) (concludeStatus_passes g k h1)
  · rw [afterHead_of_empty_body hbuf, afterHead_of_empty_body hbuf']
    exact afterBody_passes g (startBody 0x00 (reportHead 0x70 0x00 0x00 s))
  · rw [afterHead_of_body hbuf hlen, afterHead_of_body hbuf' hlen]
    rfl

theorem rxStep_ioerr {upto : Nat} {rest : List RxAnswer} {s : State} {done : State → Out} :
    rxStep upto .ioerr rest s done = .next (raiseIo .receive (takeRxFailure rest s)) := rfl

theorem rxStep_byte {upto : Nat} {v : Byte} {rest : List RxAnswer} {s : State} {done : State → Out}
    (h : s.seq.idx.toNat < 258) : rxStep upto (.byte v) rest s done =
      if s.seq.idx.toNat + 1 < upto then .next (takeRx [v] rest s) else done (takeRx [v] rest s) := by
  dsimp only [rxStep]
  rw [withWrite_of_le (b := .rxbuf) h]
  rfl

theorem rxStep_of_outside {upto : Nat} {v : Byte} {rest : List RxAnswer} {s : State} {done : State → Out}
    (h : ¬ s.seq.idx.toNat < 258) : rxStep upto (.byte v) rest s done = .fault (.bufferIndex .rxbuf) :=
  if_neg h

/-- One `RxByte` passes a change under which the stream still begins with its answer. -/
theorem rxStep_apply {upto : Nat} {a : RxAnswer} {rest rest' : List RxAnswer} {s : State} {done : State → Out}
    (hdone : g.Passes done)
    (hlink : ∀ e, { g.link s.link with rxStream := rest', history := (g.link s.link).history ++ e } =
      g.link { s.link with rxStream := rest, history := s.link.history ++ e }) :
    rxStep upto a rest' (g.apply s) done = mapNext g.apply (rxStep upto a rest s done) := by
  cases a with
  | ioerr =>
    have htake : takeRxFailure rest' (g.apply s) = g.apply (takeRxFailure rest s) := by
      rw [takeRxFailure, takeRxFailure, Aside.apply, Aside.apply, hlink]
    rw [rxStep_ioerr, rxStep_ioerr, htake]
    rfl
  | byte v =>
    have htake : takeRx [v] rest' (g.apply s) = g.apply (takeRx [v] rest s) := by
      rw [takeRx, takeRx, Aside.apply, Aside.apply, hlink]
    by_cases h : s.seq.idx.toNat < 258
    · rw [rxStep_byte h, rxStep_byte (s := g.apply s) h, htake]
      by_cases hmore : s.seq.idx.toNat + 1 < upto
      · rw [if_pos hmore]
        exact if_pos hmore
      · rw [if_neg hmore, ← hdone]
        exact if_neg hmore
    · rw [rxStep_of_outside h, rxStep_of_outside (s := g.apply s) h]
      rfl

end

/-! ## The other pieces pass changes that keep TX_COUNT, and the link where they touch it -/

section
variable (g : Aside)

theorem afterSend_apply (p : Option AnswerKind) (s : State) : afterSend p (g.apply s) = g.apply (afterSend p s) := by
  cases p <;> rfl

theorem sendStage_passes (hcount : g.txCount = id) (p : Option AnswerKind) : g.Passes (sendStage p) := by
  intro s
  refine withRead_apply g (by decide) fun fr => ?_
  by_cases hfr : fr = []
  · rw [if_pos hfr, if_pos hfr, mapNext_next, ← afterSend_apply, Aside.apply, Aside.apply, hcount]
    rfl
  · rw [if_neg hfr, if_neg hfr]
    rfl

theorem buildStage_apply {fr : List Byte} {s : State} {next : State → Out} (hnext : g.Passes next) :
    buildStage fr (g.apply s) next = mapNext g.apply (buildStage fr s next) :=
  withWrite_apply g (by decide) fun t => hnext (setFrameLen (BitVec.ofNat 9 fr.length) (runAcc fr.dropLast t))

theorem setTxCount_apply (hcount : g.txCount = id) (n : Count) (s : State) :
    setTxCount n (g.apply s) = g.apply (setTxCount n s) := by
  rw [setTxCount, setTxCount, Aside.apply, Aside.apply, hcount]
  rfl

theorem txStep_of_outside {p : Option AnswerKind} {a : TxAnswer} {rest : List TxAnswer} {s : State}
    (h : ¬ s.seq.idx.toNat < 259) : txStep p a rest s = .fault (.bufferIndex .frame) :=
  if_neg h

/-- One `TxByte` passes a change under which its answers still begin with this one. -/
theorem txStep_apply (hcount : g.txCount = id) {p : Option AnswerKind} {a : TxAnswer} {rest rest' : List TxAnswer}
    {s : State} (htake : takeTx a rest' (g.apply s) = g.apply (takeTx a rest s)) :
    txStep p a rest' (g.apply s) = mapNext g.apply (txStep p a rest s) := by
  have hidx : (g.apply s).seq.idx = s.seq.idx := rfl
  have hlen : (g.apply s).result.frameLen = s.result.frameLen := rfl
  by_cases h : s.seq.idx.toNat < 259
  · cases a with
    | ioerr =>
      rw [txStep_ioerr h, txStep_ioerr (s := g.apply s) h, htake, hidx, setTxCount_apply g hcount]
      rfl
    | ok =>
      by_cases hmore : s.seq.idx.toNat + 1 < s.result.frameLen.toNat
      · rw [txStep_ok_of_lt h hmore, txStep_ok_of_lt (s := g.apply s) h hmore, htake]
        rfl
      · have hadvance (t : State) : advanceTx (g.apply t) = g.apply (advanceTx t) := rfl
        rw [txStep_ok_last h (not_lt.mp hmore), txStep_ok_last (s := g.apply s) h (not_lt.mp hmore), htake, hlen,
          hadvance, setTxCount_apply g hcount, afterSend_apply, mapNext_next]
  · rw [txStep_of_outside h, txStep_of_outside (s := g.apply s) h]
    rfl

/-- A change of the link that touches only the bytes on the line passes every link step. -/
theorem linkStep_passes (hcount : g.txCount = id) {f : List Byte → List Byte}
    (hlink : g.link = fun l => { l with line := f l.line }) : g.Passes linkStep := by
  intro s
  have hq : (g.apply s).link = { s.link with line := f s.link.line } := congrFun hlink s.link
  have htxq : (g.apply s).link.txAnswers = s.link.txAnswers := by rw [hq]
  have hrxq : (g.apply s).link.rxStream = s.link.rxStream := by rw [hq]
  cases hcont : s.seq.cont with
  | none => rw [linkStep_of_none hcont, linkStep_of_none (s := g.apply s) hcont, mapNext_next]
  | send p =>
    cases htx : s.link.txAnswers with
    | nil =>
      rw [linkStep_of_unanswered (.inl ⟨p, hcont, htx⟩),
        linkStep_of_unanswered (s := g.apply s) (.inl ⟨p, hcont, htxq.trans htx⟩), mapNext_next]
    | cons a rest =>
      rw [linkStep_send hcont htx, linkStep_send (s := g.apply s) hcont (htxq.trans htx)]
      exact txStep_apply g hcount (by rw [takeTx, takeTx, Aside.apply, Aside.apply, hlink])
  | head k =>
    cases hrx : s.link.rxStream with
    | nil =>
      rw [linkStep_of_unanswered (.inr (.inl ⟨k, hcont, hrx⟩)),
        linkStep_of_unanswered (s := g.apply s) (.inr (.inl ⟨k, hcont, hrxq.trans hrx⟩)), mapNext_next]
    | cons a rest =>
      rw [linkStep_head hcont hrx, linkStep_head (s := g.apply s) hcont (hrxq.trans hrx)]
      exact rxStep_apply g (afterHead_passes g k) (fun e => by rw [hlink])
  | body =>
    cases hrx : s.link.rxStream with
    | nil =>
      rw [linkStep_of_unanswered (.inr (.inr ⟨hcont, hrx⟩)),
        linkStep_of_unanswered (s := g.apply s) (.inr (.inr ⟨hcont, hrxq.trans hrx⟩)), mapNext_next]
    | cons a rest =>
      rw [linkStep_body hcont hrx, linkStep_body (s := g.apply s) hcont (hrxq.trans hrx)]
      exact rxStep_apply g (afterBody_passes g) (fun e => by rw [hlink])

theorem receiveBytes_passes {f : List Byte → List Byte} (hlink : g.link = fun l => { l with line := f l.line })
    (bytes : List Byte) : g.Passes (receiveBytes bytes) := by
  intro s
  rw [receiveBytes, receiveBytes, mapNext_next, joinStream, joinStream, Aside.apply, Aside.apply, hlink]

theorem transmitFrame_passes (hcount : g.txCount = id) {f : List Byte → List Byte}
    (hlink : g.link = fun l => { l with line := f l.line }) (fr : List Byte) : g.Passes (transmitFrame fr) := by
  intro s
  unfold transmitFrame
  have hoffers : offers fr (g.apply s) = offers fr s := rfl
  rw [hoffers]
  split
  · exact linkStep_passes g hcount hlink s
  · rfl

theorem execChk_passes (dlen : Count) (data : List Byte) : g.Passes (execChk dlen data) := by
  intro s
  unfold execChk
  split <;> rfl

theorem endBuild_passes (v : Byte) : g.Passes (fun s => .next (finish .ok (setCalcCk v s))) :=
  fun _ => rfl

theorem execBc_passes (f : Byte) (dlen : Count) (data : List Byte) : g.Passes (execBc f dlen data) := by
  intro s
  unfold execBc
  split
  · rfl
  · exact buildStage_apply g (endBuild_passes g _)

theorem execXc_passes (hcount : g.txCount = id) (f : Byte) (dlen : Count) (data : List Byte) :
    g.Passes (execXc f dlen data) := by
  intro s
  unfold execXc
  split
  · rfl
  · exact buildStage_apply g (sendStage_passes g hcount _)

/-- Every instruction passes a change of the port, the latch, LDATA and the bytes on the line. -/
theorem exec_passes (hcount : g.txCount = id) {f : List Byte → List Byte}
    (hlink : g.link = fun l => { l with line := f l.line }) (i : Instr) : g.Passes (exec i) := by
  intro s
  cases i with
  | chk dlen data => exact execChk_passes g dlen data s
  | bq f d1 d2 => exact buildStage_apply g (fr := queryFrame f d1 d2) (s := s) (endBuild_passes g _)
  | bc f dlen data => exact execBc_passes g f dlen data s
  | send => exact sendStage_passes g hcount none s
  | pq => rfl
  | pc => rfl
  | xq f d1 d2 => exact buildStage_apply g (fr := queryFrame f d1 d2) (s := s) (sendStage_passes g hcount _)
  | xc f dlen data => exact execXc_passes g hcount f dlen data s
  | qreq f a b c => exact transmitFrame_passes g hcount hlink _ s
  | creq f l d c => exact transmitFrame_passes g hcount hlink _ s
  | ansQOk n p c => exact receiveBytes_passes g hlink _ s
  | ansQErr st c => exact receiveBytes_passes g hlink _ s
  | ansC st c => exact receiveBytes_passes g hlink _ s

end

/-- The port, the latch and LDATA are given other contents. -/
def portAside (p : RequestPort) (l : RequestLatch) (d : Memory) : Aside where
  port    := fun _ => p
  latch   := fun _ => l
  ldata   := fun _ => d
  link    := id
  txCount := id
  resetIn := id
  draws   := id

/-- Settles O48: such a change commutes with every instruction and with the link step. -/
theorem runningOperationIgnoresPortAndLatch : Obligations.RunningOperationIgnoresPortAndLatch := by
  intro i s p l d
  exact ⟨exec_passes (portAside p l d) rfl (f := id) rfl i s, linkStep_passes (portAside p l d) rfl (f := id) rfl s⟩

/-! ## What a link step leaves alone -/

/-- Each of these fields is given the content it has in `s`. -/
def heldAside (s : State) : Aside where
  port    := fun _ => s.port
  latch   := fun _ => s.latch
  ldata   := fun _ => s.bufs.ldata
  link    := fun l => { l with line := s.link.line }
  txCount := id
  resetIn := fun _ => s.resetIn
  draws   := fun _ => s.draws

/-- A link step leaves the port, the latch, LDATA, the bytes on the line, the reset input and the counter of draws
as they are: giving them their own contents commutes with it. -/
theorem linkStep_holds {s t : State} (h : linkStep s = .next t) : t = (heldAside s).apply t := by
  have hpasses := linkStep_passes (heldAside s) rfl (f := fun _ => s.link.line) rfl s
  rw [show (heldAside s).apply s = s from rfl, h, mapNext_next] at hpasses
  exact Host.Outcome.next.inj hpasses

/-- Settles O47: a step of a busy block is an arrival, which touches the link alone, or a link step. -/
theorem requestWaitsWhileBusy : Obligations.RequestWaitsWhileBusy := by
  intro s t hreset hbusy h
  by_cases hline : s.link.line = []
  · rw [step_eq_linkStep ⟨hreset, hline, hbusy⟩] at h
    rw [linkStep_holds h]
    exact ⟨rfl, rfl, rfl⟩
  · obtain ⟨bytes, rest, -, harrival⟩ := arrivalStep_eq hline
    rw [step_of_line hreset hline, harrival] at h
    cases h
    exact ⟨rfl, rfl, rfl⟩

end Sys2Proof.Machine

/-! What each piece of a running operation leads to: for any property, the states it has to hold of for the piece to
answer a next state with it. The parse stage always answers one; a link step does wherever its index is in range. -/

namespace Sys2Proof.Machine

/-- The piece answers a next state, and that state has the property. -/
def Leads (P : State → Prop) (o : Out) : Prop := ∃ t, o = .next t ∧ P t

section
variable {P : State → Prop} {s t : State} {o : Out}

theorem leads_next (h : P s) : Leads P (.next s) := ⟨s, rfl, h⟩

theorem Leads.of_eq_next (h : Leads P o) (ho : o = .next t) : P t := by
  obtain ⟨u, hu, hP⟩ := h
  rw [hu] at ho
  cases ho
  exact hP

/-! ## The parse stage -/

/-- The payload stored and counted, and the operation ended OK and Completed. -/
def payloadStored (p : List Byte) (s : State) : State :=
  finish .ok { s.setBuf .payload (s.bufs.payload.writeBytes 0 p) with
    result := { s.result with plen := BitVec.ofNat 8 p.length, statusCode := .completed } }

/-- The end of a short answer whose checksum is right. -/
def statusConcluded (k : AnswerKind) (st : Byte) (s : State) : State :=
  finish (if st = 0x00 then .ok else .status)
    { s with result := { s.result with statusCode := if st = 0x00 then .completed else decodeStatus k st } }

theorem concludeStatus_eq (k : AnswerKind) (st : Byte) (s : State) :
    concludeStatus k st s = .next (statusConcluded k st s) := by
  unfold concludeStatus
  rw [Config.stCompleted, statusConcluded]
  split <;> rfl

theorem leads_compareChecksum {covered : List Byte} {c : Byte} {pass : State → Out}
    (hright : checksum covered = c → Leads P (pass (reportChecksums covered c s)))
    (hwrong : checksum covered ≠ c → P (finish .checksum (reportChecksums covered c s))) :
    Leads P (compareChecksum covered c s pass) := by
  by_cases hc : checksum covered = c
  · rw [compareChecksum_of_eq hc]
    exact hright hc
  · rw [compareChecksum_of_ne hc]
    exact leads_next (hwrong hc)

/-- The buffer after the body is the covered bytes and the checksum byte. -/
theorem leads_afterBody
    (hright : ∀ covered, covered.length = 2 + s.seq.nexp.toNat →
      s.bufs.rxbuf.readBytes 0 (3 + s.seq.nexp.toNat) = covered ++ [checksum covered] →
      P (payloadStored (covered.drop 3) (reportChecksums covered (checksum covered) s)))
    (hwrong : ∀ covered c, checksum covered ≠ c → P (finish .checksum (reportChecksums covered c s))) :
    Leads P (afterBody s) := by
  have hlen := Memory.length_readBytes s.bufs.rxbuf 0 (3 + s.seq.nexp.toNat)
  obtain ⟨covered, c, hbuf⟩ := (List.eq_nil_or_concat
    (s.bufs.rxbuf.readBytes 0 (3 + s.seq.nexp.toNat))).resolve_left fun hnil => by
      rw [hnil, List.length_nil] at hlen
      omega
  rw [List.concat_eq_append] at hbuf
  rw [hbuf, List.length_append, List.length_singleton] at hlen
  have hnexp := s.seq.nexp.isLt
  rw [afterBody_eq hbuf]
  refine leads_compareChecksum (fun hc => ?_) (hwrong covered c)
  subst hc
  have hfits : (covered.drop 3).length ≤ 254 := by
    rw [List.length_drop]
    omega
  rw [concludePayload_of_le hfits]
  exact leads_next (hright covered (by omega) hbuf)

theorem leads_afterHead {k : AnswerKind}
    (hframing : ∀ h0 h1 h2, h0 ≠ 0x70 → P (finish .framing (reportHead h0 h1 h2 s)))
    (hshort : ∀ h1, k = .control ∨ h1 ≠ 0x00 → P (statusConcluded k h1
      (reportChecksums [0x70, h1] (checksum [0x70, h1]) (reportHead 0x70 h1 (checksum [0x70, h1]) s))))
    (hwrong : ∀ covered c h1 h2 q, checksum covered ≠ c →
      P (finish .checksum (reportChecksums covered c { reportHead 0x70 h1 h2 s with seq := q })))
    (hbody : ∀ n, s.bufs.rxbuf.readBytes 0 3 = [0x70, 0x00, n] → n ≠ 0x00 →
      P (startBody n (reportHead 0x70 0x00 n s))) :
    Leads P (afterHead k s) := by
  obtain ⟨h0, h1, h2, hbuf, hcases⟩ := head_cases k s.bufs.rxbuf
  rcases hcases with hne | ⟨rfl, hs⟩ | ⟨rfl, rfl, rfl, rfl⟩ | ⟨rfl, rfl, rfl, hn⟩
  · rw [afterHead_of_wrong_header hbuf hne]
    exact leads_next (hframing h0 h1 h2 hne)
  · rw [afterHead_of_short hbuf hs]
    refine leads_compareChecksum (fun hc => ?_) fun hc => hwrong _ _ h1 h2 s.seq hc
    subst hc
    rw [concludeStatus_eq]
    exact leads_next (hshort h1 hs)
  · have hcompare : afterBody (startBody 0x00 (reportHead 0x70 0x00 0x00 s)) = .next
        (finish .checksum (reportChecksums [0x70, 0x00] 0x00 (startBody 0x00 (reportHead 0x70 0x00 0x00 s)))) := by
      rw [afterBody_eq (covered := [0x70, 0x00]) (c := 0x00) hbuf, compareChecksum_of_ne (by decide)]
    rw [afterHead_of_empty_body hbuf, hcompare]
    exact leads_next (hwrong [0x70, 0x00] 0x00 0x00 0x00 { s.seq with nexp := 0x00, cont := .body } (by decide))
  · rw [afterHead_of_body hbuf hn]
    exact leads_next (hbody h2 hbuf hn)

/-! ## One link step -/

theorem leads_rxStep {upto : Nat} {a : RxAnswer} {rest : List RxAnswer} {done : State → Out}
    (hidx : s.seq.idx.toNat < 258) (hfail : a = .ioerr → P (raiseIo .receive (takeRxFailure rest s)))
    (hmore : ∀ v, a = .byte v → s.seq.idx.toNat + 1 < upto → P (takeRx [v] rest s))
    (hdone : ∀ v, a = .byte v → upto ≤ s.seq.idx.toNat + 1 → Leads P (done (takeRx [v] rest s))) :
    Leads P (rxStep upto a rest s done) := by
  cases a with
  | ioerr => exact leads_next (hfail rfl)
  | byte v =>
    rw [rxStep_byte hidx]
    split
    next hlt => exact leads_next (hmore v rfl hlt)
    next hge => exact hdone v rfl (not_lt.mp hge)

theorem leads_txStep {p : Option AnswerKind} {a : TxAnswer} {rest : List TxAnswer} (hidx : s.seq.idx.toNat < 259)
    (hfail : P (raiseIo .transmit (setTxCount s.seq.idx (takeTx a rest s))))
    (hmore : s.seq.idx.toNat + 1 < s.result.frameLen.toNat → P (advanceTx (takeTx a rest s)))
    (hlast : s.result.frameLen.toNat ≤ s.seq.idx.toNat + 1 →
      P (afterSend p (setTxCount s.result.frameLen (advanceTx (takeTx a rest s))))) :
    Leads P (txStep p a rest s) := by
  cases a with
  | ioerr =>
    rw [txStep_ioerr hidx]
    exact leads_next hfail
  | ok =>
    by_cases h : s.seq.idx.toNat + 1 < s.result.frameLen.toNat
    · rw [txStep_ok_of_lt hidx h]
      exact leads_next (hmore h)
    · rw [txStep_ok_last hidx (not_lt.mp h)]
      exact leads_next (hlast (not_lt.mp h))

end

/-! ## PAYLOAD (10_state R40, 20_memory R83) -/

/-- PAYLOAD is the same in both states, or the second has ended a successful query or control parse. -/
def PayloadKept (s t : State) : Prop :=
  t.bufs.payload = s.bufs.payload ∨ (t.endedWith .ok ∧ t.result.statusCode = .completed)

theorem afterBody_keepsPayload (s : State) : Leads (PayloadKept s) (afterBody s) :=
  leads_afterBody (fun _ _ _ => .inr ⟨endedWith_finish _ _, rfl⟩) (fun _ _ _ => .inl rfl)

theorem afterHead_keepsPayload (k : AnswerKind) (s : State) : Leads (PayloadKept s) (afterHead k s) :=
  leads_afterHead (fun _ _ _ _ => .inl rfl) (fun _ _ => .inl rfl) (fun _ _ _ _ _ _ => .inl rfl)
    (fun _ _ _ => .inl rfl)

theorem idx_lt_of_txStep_next {p : Option AnswerKind} {a : TxAnswer} {rest : List TxAnswer} {s t : State}
    (h : txStep p a rest s = .next t) : s.seq.idx.toNat < 259 := by
  by_contra hidx
  rw [txStep_of_outside hidx] at h
  cases h

theorem afterSend_payload (p : Option AnswerKind) (s : State) :
    (afterSend p s).bufs.payload = s.bufs.payload := by
  cases p <;> rfl

theorem txStep_keepsPayload {p : Option AnswerKind} {a : TxAnswer} {rest : List TxAnswer} {s t : State}
    (h : txStep p a rest s = .next t) : PayloadKept s t :=
  (leads_txStep (P := PayloadKept s) (idx_lt_of_txStep_next h) (.inl rfl) (fun _ => .inl rfl)
    (fun _ => .inl (afterSend_payload p _))).of_eq_next h

theorem rxStep_keepsPayload {upto : Nat} {a : RxAnswer} {rest : List RxAnswer} {s t : State} {done : State → Out}
    (hdone : ∀ u, Leads (PayloadKept u) (done u)) (h : rxStep upto a rest s done = .next t) : PayloadKept s t := by
  by_cases hidx : s.seq.idx.toNat < 258
  · exact (leads_rxStep (P := PayloadKept s) hidx (fun _ => .inl rfl) (fun _ _ _ => .inl rfl)
      (fun v _ _ => hdone (takeRx [v] rest s))).of_eq_next h
  · cases a with
    | ioerr =>
      cases h
      exact .inl rfl
    | byte v =>
      rw [rxStep_of_outside hidx] at h
      cases h

theorem linkStep_keepsPayload {s t : State} (h : linkStep s = .next t) : PayloadKept s t := by
  rcases linkStep_next h with rfl | ⟨p, a, rest, -, -, h⟩ | ⟨k, _, _, -, -, h⟩ | ⟨_, _, -, -, h⟩
  · exact .inl rfl
  · exact txStep_keepsPayload h
  · exact rxStep_keepsPayload (afterHead_keepsPayload k) h
  · exact rxStep_keepsPayload afterBody_keepsPayload h

/-- A send stage, whatever FRAME_LEN says, writes no PAYLOAD before its first link step. -/
theorem sendStage_payload {p : Option AnswerKind} {s t : State} (h : sendStage p s = .next t) :
    t.bufs.payload = s.bufs.payload := by
  obtain ⟨-, h⟩ := withRead_next h
  split at h
  · cases h
    exact afterSend_payload p _
  · cases h
    rfl

theorem buildStage_payload {fr : List Byte} {s t : State} {next : State → Out}
    (hnext : ∀ u v, next u = .next v → v.bufs.payload = u.bufs.payload) (h : buildStage fr s next = .next t) :
    t.bufs.payload = s.bufs.payload := by
  obtain ⟨-, h⟩ := withWrite_next h
  exact (hnext _ t h).trans rfl

theorem endBuild_payload (c : Byte) (u v : State)
    (h : (fun s => Host.Outcome.next (finish .ok (setCalcCk c s)) : State → Out) u = .next v) :
    v.bufs.payload = u.bufs.payload := by
  cases h
  rfl

/-- The eight rows of an operation request. -/
def isOperation : Instr → Prop
  | .chk _ _ => True
  | .bq _ _ _ => True
  | .bc _ _ _ => True
  | .send => True
  | .pq => True
  | .pc => True
  | .xq _ _ _ => True
  | .xc _ _ _ => True
  | _ => False

/-- The latch holds an operation, whatever its fields (30_encoding R115). -/
theorem isOperation_decodeFields (op : BitVec 3) (f d1 d2 : Byte) (dlen : Count) (data : List Byte) :
    isOperation (decodeFields op f d1 d2 dlen data) := by
  unfold decodeFields
  split_ifs <;> trivial

/-- An operation writes no PAYLOAD before its first link step. -/
theorem exec_operation_payload {i : Instr} (hi : isOperation i) {s t : State} (h : exec i s = .next t) :
    t.bufs.payload = s.bufs.payload := by
  cases i with
  | chk dlen data =>
    change execChk dlen data s = .next t at h
    unfold execChk at h
    split at h <;> cases h <;> rfl
  | bq f d1 d2 => exact buildStage_payload (fr := queryFrame f d1 d2) (endBuild_payload _) h
  | bc f dlen data =>
    change execBc f dlen data s = .next t at h
    unfold execBc at h
    split at h
    · cases h
      rfl
    · exact buildStage_payload (endBuild_payload _) h
  | send => exact sendStage_payload h
  | pq => cases h; rfl
  | pc => cases h; rfl
  | xq f d1 d2 => exact buildStage_payload (fr := queryFrame f d1 d2) (fun _ _ => sendStage_payload) h
  | xc f dlen data =>
    change execXc f dlen data s = .next t at h
    unfold execXc at h
    split at h
    · cases h
      rfl
    · exact buildStage_payload (fun _ _ => sendStage_payload) h
  | _ => exact hi.elim

/-- Settles O29: of the five events of a step only reset and a link step can write PAYLOAD, and a link step does so
only as it ends OK and Completed. -/
theorem payloadPersistsUntilASuccessfulParse : Obligations.PayloadPersistsUntilASuccessfulParse := by
  intro s t hreset h
  rcases step_next h with ⟨hr, -⟩ | ⟨-, hline, harrival⟩ | ⟨-, hresume⟩ | ⟨-, haccept⟩ |
    ⟨-, -, -, -, rfl⟩
  · rw [hreset] at hr
    cases hr
  · obtain ⟨bytes, rest, -, heq⟩ := arrivalStep_eq hline
    rw [heq] at harrival
    cases harrival
    exact .inl rfl
  · rw [resumeStep_eq_linkStep] at hresume
    exact linkStep_keepsPayload hresume
  · exact .inl ((exec_operation_payload (isOperation_decodeFields _ _ _ _ _ _) haccept).trans rfl)
  · exact .inl rfl

end Sys2Proof.Machine

/-! The invariant (10_state R31, R32, R43 to R45, 60_exceptions R250 to R256): every piece of an operation leads from a
state that has what the invariant says of a running operation to one that has the invariant again. -/

namespace Sys2Proof.Machine

/-! ## What each outcome records (R250 to R256) -/

section
variable {t : State}

/-- OK without a parse, IO and LENGTH record no status, payload or checksum comparison. -/
theorem outcomeOk_of_plain (hkind : t.result.resultKind = .ok ∨ t.result.resultKind = .io ∨
      t.result.resultKind = .length) (hstatus : t.result.statusCode = .none) (hplen : t.result.plen = 0)
    (htx : t.result.txCount.toNat ≤ 259) (hrx : t.result.rxCount.toNat ≤ 258) : t.outcomeOk := by
  rcases hkind with hkind | hkind | hkind <;>
    simp [State.outcomeOk, hkind, hstatus, hplen, Config.frameMax, Config.rxbufMax, htx, hrx]

theorem outcomeOk_of_framing (hkind : t.result.resultKind = .framing) (hstatus : t.result.statusCode = .none)
    (hplen : t.result.plen = 0) (hheader : t.result.hdrRaw ≠ 0x70) (hrxCk : t.result.rxCk = 0)
    (hcalcCk : t.result.calcCk = 0) (htx : t.result.txCount.toNat ≤ 259) (hrx : t.result.rxCount = 3) :
    t.outcomeOk := by
  have hheader' : t.result.hdrRaw ≠ Config.hdrAnswer := hheader
  simp [State.outcomeOk, hkind, hstatus, hplen, hheader', hrxCk, hcalcCk, Config.frameMax, Config.rxbufMax, htx, hrx]

theorem outcomeOk_of_checksum (hkind : t.result.resultKind = .checksum) (hstatus : t.result.statusCode = .none)
    (hplen : t.result.plen = 0) (hne : t.result.rxCk ≠ t.result.calcCk) (htx : t.result.txCount.toNat ≤ 259)
    (hrx : t.result.rxCount.toNat ≤ 258) : t.outcomeOk := by
  simp [State.outcomeOk, hkind, hstatus, hplen, hne, Config.frameMax, Config.rxbufMax, htx, hrx]

theorem outcomeOk_of_status (hkind : t.result.resultKind = .status) (hstatus : t.result.statusCode ≠ .completed)
    (hstatus' : t.result.statusCode ≠ .none) (hplen : t.result.plen = 0) (heq : t.result.rxCk = t.result.calcCk)
    (hraw : t.result.statusRaw ≠ 0x00) (htx : t.result.txCount.toNat ≤ 259) (hrx : t.result.rxCount = 3) :
    t.outcomeOk := by
  have hraw' : t.result.statusRaw ≠ Config.stCompleted := hraw
  simp [State.outcomeOk, hkind, hstatus, hstatus', hplen, heq, hraw', Config.frameMax, Config.rxbufMax, htx, hrx]

theorem outcomeOk_of_completed (hkind : t.result.resultKind = .ok) (hvalid : t.result.resultValid = true)
    (hstatus : t.result.statusCode = .completed) (hplen : t.result.plen.toNat ≤ 254)
    (htx : t.result.txCount.toNat ≤ 259) (hrx : t.result.rxCount.toNat ≤ 258) : t.outcomeOk := by
  simp [State.outcomeOk, hkind, hvalid, hstatus, hplen, Config.payloadMax, Config.frameMax, Config.rxbufMax, htx, hrx]

/-- No status byte is decoded to Completed or to None. -/
theorem decodeStatus_ne (k : AnswerKind) (st : Byte) :
    decodeStatus k st ≠ .completed ∧ decodeStatus k st ≠ .none := by
  cases k with
  | query =>
    rw [decodeStatus, decodeQry]
    split_ifs <;> simp
  | control =>
    rw [decodeStatus, decodeCtl]
    split_ifs <;> simp

/-- An ended operation leaves nothing pending, so its outcome is all the invariant asks of it. -/
theorem inv_of_ended {k : ResultKind} (hmem : t.memoriesOk) (hframe : t.frameOk) (hend : t.endedWith k)
    (hout : t.outcomeOk) : t.Inv := by
  obtain ⟨-, hvalid, hbusy, hphase, hcont⟩ := hend
  refine ⟨hmem, ?flags, hframe, ?position, fun h => ?running, hout⟩
  case flags => simp [State.flagsOk, hbusy, hphase, hcont]
  case position => simp [State.positionOk, hcont]
  case running =>
    rw [hbusy] at h
    cases h

end

/-! ## Buffers and frames -/

/-- A store inside a buffer keeps every array canonical and inside its size. -/
theorem memoriesOk_setBuf {s : State} (h : s.memoriesOk) {b : Buffer} {i : Nat} {v : List Byte}
    (hfits : i + v.length ≤ bufferSize b) : (s.setBuf b ((s.buf b).writeBytes i v)).memoriesOk := by
  obtain ⟨hldata, hframe, hrxbuf, hpayload, hport⟩ := h
  have hstore {m : Memory} (hm : m.wf ∧ m.within (bufferSize b)) :
      (m.writeBytes i v).wf ∧ (m.writeBytes i v).within (bufferSize b) :=
    ⟨Memory.writeBytes_wf hm.1 i v, Memory.writeBytes_within hm.2 hfits⟩
  cases b with
  | ldata => exact ⟨hstore hldata, hframe, hrxbuf, hpayload, hport⟩
  | frame => exact ⟨hldata, hstore hframe, hrxbuf, hpayload, hport⟩
  | rxbuf => exact ⟨hldata, hframe, hstore hrxbuf, hpayload, hport⟩
  | payload => exact ⟨hldata, hframe, hrxbuf, hstore hpayload, hport⟩

theorem SameFrame.frameOk {s t : State} (h : SameFrame s t) (hs : s.frameOk) : t.frameOk := by
  rwa [State.frameOk, h.frameBytes_eq, h.frameLen]

/-- What a well-formed request row encodes is a request frame. -/
theorem isRequestFrame_of_encode {i : Instr} {bytes : List Byte} (hwf : i.wf = true)
    (h : encode i = .frame .request bytes) : isRequestFrame bytes = true := by
  have hdecode := decodeOfEncodeIsIdentity i hwf
  rw [h, decode] at hdecode
  rw [isRequestFrame, hdecode]
  exact hwf

theorem isRequestFrame_queryFrame (f d1 d2 : Byte) : isRequestFrame (queryFrame f d1 d2) = true :=
  isRequestFrame_of_encode
    (i := .qreq f d1 d2 (checksum [Config.hdrQuery, Config.category, f, d1, d2])) (by simp [Instr.wf]) rfl

theorem isRequestFrame_controlFrame (f : Byte) {d : List Byte} (h : d.length ≤ 254) :
    isRequestFrame (controlFrame f d) = true := by
  refine isRequestFrame_of_encode (i := .creq f (BitVec.ofNat 8 (d.length + 1)) d
    (checksum ([Config.hdrControl, Config.category, f, BitVec.ofNat 8 (d.length + 1)] ++ d))) ?_ rfl
  have hlen : (d.length + 1) % 2 ^ 8 = d.length + 1 := Nat.mod_eq_of_lt (by omega)
  simp only [Instr.wf, BitVec.toNat_ofNat, hlen, beq_self_eq_true, Bool.and_self]

/-! ## A running operation (R39, R43) -/

/-- What the invariant says of a running operation, but for its position. -/
structure Working (s : State) : Prop where
  memories : s.memoriesOk
  frame : s.frameOk
  busy : s.result.busy = true
  invalid : s.result.resultValid = false
  phase : s.seq.phase = .run
  kind : s.result.resultKind = .ok
  status : s.result.statusCode = .none
  ioDir : s.result.ioDir = .transmit
  plen : s.result.plen = 0
  rxCk : s.result.rxCk = 0
  calcCk : s.result.calcCk = 0
  txCount : s.result.txCount.toNat ≤ 259
  rxCount : s.result.rxCount.toNat ≤ 258

theorem working_of_inv {s : State} (h : s.Inv) (hbusy : s.result.busy = true) : Working s := by
  obtain ⟨hmem, ⟨hvalid, hphase, -⟩, hframe, -, hrunning, -, -, -, -, -, -, -, htx, hrx⟩ := h
  obtain ⟨hkind, hstatus, hdir, hplen, hrxCk, hcalcCk⟩ := hrunning hbusy
  refine ⟨hmem, hframe, hbusy, ?invalid, ?phase, hkind, hstatus, hdir, hplen, hrxCk, hcalcCk, htx, hrx⟩
  case invalid => simpa [hbusy] using hvalid
  case phase =>
    cases hp : s.seq.phase with
    | idle => simp [hp, hbusy] at hphase
    | run => rfl

namespace Working

variable {s : State}

/-- A running operation with a pending link step inside its frame or answer has the invariant. -/
theorem inv (h : Working s) (hcont : s.seq.cont ≠ .none) (hpos : s.positionOk) : s.Inv := by
  refine ⟨h.memories, ?flags, h.frame, hpos,
    fun _ => ⟨h.kind, h.status, h.ioDir, h.plen, h.rxCk, h.calcCk⟩,
    outcomeOk_of_plain (.inl h.kind) h.status h.plen h.txCount h.rxCount⟩
  case flags => simp [State.flagsOk, h.busy, h.invalid, h.phase, hcont]

/-- An operation that records no parse has the invariant when it ends. -/
theorem inv_finish_plain (h : Working s) {k : ResultKind} (hk : k = .ok ∨ k = .io ∨ k = .length) (d : IoDir)
    (c : Byte) (n : Count) (hn : n.toNat ≤ 259) : (finish k { s with
      result := { s.result with ioDir := d, calcCk := c, txCount := n } }).Inv :=
  inv_of_ended h.memories h.frame (endedWith_finish k _) (outcomeOk_of_plain hk h.status h.plen hn h.rxCount)

end Working

/-! ## The stages -/

theorem exec_bq (f d1 d2 : Byte) (s : State) : exec (.bq f d1 d2) s = buildStage (queryFrame f d1 d2) s
    fun s1 => .next (finish .ok (setCalcCk ((queryFrame f d1 d2).getLastD 0) s1)) := rfl

theorem exec_xq (f d1 d2 : Byte) (s : State) : exec (.xq f d1 d2) s =
    buildStage (queryFrame f d1 d2) s (sendStage (some .query)) := rfl

/-- A running operation that has recorded nothing: no byte is counted and no head is reported (R43). -/
structure Fresh (s : State) : Prop extends Working s where
  txZero : s.result.txCount = 0
  rxZero : s.result.rxCount = 0
  heads : (s.result.hdrRaw, s.result.statusRaw, s.result.b2Raw) = (0, 0, 0)

theorem fresh_accept {s : State} (h : s.Inv) : Fresh (accept s) := by
  obtain ⟨hmem, -, hframe, -⟩ := h
  have hfits : 0 + (s.port.data.readBytes 0 (latchedLength (reqDlen s.port.req1))).length ≤ bufferSize .ldata := by
    rw [Memory.length_readBytes, Nat.zero_add]
    exact latchedLength_le _
  exact ⟨⟨memoriesOk_setBuf (b := .ldata) hmem hfits, hframe, rfl, rfl, rfl, rfl, rfl, rfl, rfl, rfl, rfl,
    Nat.zero_le _, Nat.zero_le _⟩, rfl, rfl, rfl⟩

namespace Fresh

variable {s : State}

theorem inv_startHead (h : Fresh s) (k : AnswerKind) : (startHead k s).Inv := by
  have hw : Working (startHead k s) := { h.toWorking with }
  exact hw.inv nofun ⟨(idx_startHead k s).trans_lt (by decide), h.rxZero, h.heads⟩

theorem built (h : Fresh s) {fr : List Byte} (hlen : fr.length ≤ 259) (hfr : isRequestFrame fr = true) :
    Fresh (built fr s) := by
  have hfits : 0 + fr.length ≤ bufferSize .frame := by simpa [bufferSize, Config.frameMax] using hlen
  have hframe : (Machine.built fr s).frameOk :=
    .inr ⟨(frameLen_built hlen).trans_le hlen, by rw [frameBytes_built hlen, hfr]⟩
  exact { h with memories := memoriesOk_setBuf (b := .frame) h.memories hfits, frame := hframe }

/-- Both ways a send stage can begin. -/
theorem leads_sendStage (h : Fresh s) (p : Option AnswerKind) : Leads State.Inv (sendStage p s) := by
  by_cases hzero : s.result.frameLen = 0
  · rw [sendStage_of_empty hzero]
    cases p with
    | none => exact leads_next (h.inv_finish_plain (.inl rfl) _ _ 0 (by decide))
    | some k =>
      have hfresh : Fresh { s with result := { s.result with txCount := 0 } } :=
        { h with txZero := rfl, txCount := Nat.zero_le 259 }
      exact leads_next (hfresh.inv_startHead k)
  · obtain hzero' | ⟨hlen, -⟩ := h.frame
    · exact absurd hzero' hzero
    · have hpos : 0 < s.result.frameLen.toNat := toNat_pos_of_ne_zero hzero
      rw [sendStage_of_nonempty hzero hlen]
      have hw : Working { s with seq := { s.seq with cont := .send p, idx := 0 } } := { h.toWorking with }
      exact leads_next (hw.inv nofun ⟨hpos, h.txZero, h.rxZero, h.heads⟩)

theorem leads_endBuild (h : Fresh s) (c : Byte) :
    Leads State.Inv (.next (finish .ok (setCalcCk c s))) :=
  leads_next (h.inv_finish_plain (.inl rfl) s.result.ioDir c s.result.txCount h.txCount)

theorem leads_refuseLength (h : Fresh s) : Leads State.Inv (refuseLength s) := by
  have hempty : (setFrameLen 0 s).frameOk := .inl rfl
  have hw : Working (setFrameLen 0 s) := { h.toWorking with frame := hempty }
  exact leads_next (hw.inv_finish_plain (.inr (.inr rfl)) _ _ _ h.txCount)

/-- An operation that acceptance has prepared leads, up to its first link step, to the invariant. -/
theorem leads_exec (h : Fresh s) {i : Instr} (hi : isOperation i) : Leads State.Inv (exec i s) := by
  cases i with
  | chk dlen data =>
    by_cases hlen : dlen.toNat ≤ 259
    · rw [exec_chk, execChk_of_le data s hlen]
      exact leads_next (h.inv_finish_plain (.inl rfl) s.result.ioDir _ _ h.txCount)
    · rw [exec_chk, execChk_of_gt data s (not_le.mp hlen)]
      exact leads_next (h.inv_finish_plain (.inr (.inr rfl)) _ _ _ h.txCount)
  | bq f d1 d2 =>
    rw [exec_bq, buildStage_eq_built (by simp)]
    exact (h.built (by simp) (isRequestFrame_queryFrame f d1 d2)).leads_endBuild _
  | bc f dlen data =>
    by_cases hlen : dlen.toNat ≤ 254
    · have hfr := length_controlFrame_operandData_le (f := f) (data := data) hlen
      rw [exec_bc, execBc_of_le hlen, buildStage_eq_built hfr]
      exact (h.built hfr (isRequestFrame_controlFrame f (by simpa using hlen))).leads_endBuild _
    · rw [exec_bc, execBc_of_gt (not_le.mp hlen)]
      exact h.leads_refuseLength
  | send => exact h.leads_sendStage none
  | pq => exact leads_next (h.inv_startHead .query)
  | pc => exact leads_next (h.inv_startHead .control)
  | xq f d1 d2 =>
    rw [exec_xq, buildStage_eq_built (by simp)]
    exact (h.built (by simp) (isRequestFrame_queryFrame f d1 d2)).leads_sendStage _
  | xc f dlen data =>
    change Leads State.Inv (execXc f dlen data s)
    by_cases hlen : dlen.toNat ≤ 254
    · have hfr := length_controlFrame_operandData_le (f := f) (data := data) hlen
      rw [execXc_of_le hlen, buildStage_eq_built hfr]
      exact (h.built hfr (isRequestFrame_controlFrame f (by simpa using hlen))).leads_sendStage _
    · rw [execXc_of_gt (not_le.mp hlen)]
      exact h.leads_refuseLength
  | _ => exact hi.elim

end Fresh

/-! ## The link steps -/

theorem toNat_add_one {n : Count} (h : n.toNat < 511) : (n + 1).toNat = n.toNat + 1 := by
  have hone : (1 : Count).toNat = 1 := rfl
  rw [BitVec.toNat_add, hone]
  omega

namespace Working

variable {s : State}

/-- One `TxByte` of a running operation inside its frame. -/
theorem leads_txStep (h : Working s) {p : Option AnswerKind} (hcont : s.seq.cont = .send p) (hpos : s.positionOk)
    (a : TxAnswer) (rest : List TxAnswer) : Leads State.Inv (txStep p a rest s) := by
  simp only [State.positionOk, hcont] at hpos
  obtain ⟨hidx, htx, hrx, hheads⟩ := hpos
  have hlen : s.result.frameLen.toNat ≤ 259 := by
    obtain hzero | ⟨hlen, -⟩ := h.frame
    · rw [hzero] at hidx
      exact absurd hidx (Nat.not_lt_zero _)
    · exact hlen
  refine Machine.leads_txStep (by omega) ?fail (fun hmore => ?more) fun _ => ?last
  case fail => exact h.inv_finish_plain (.inr (.inl rfl)) .transmit _ s.seq.idx (by omega)
  case more =>
    have hw : Working (advanceTx (takeTx a rest s)) := { h with }
    have hcont' : (advanceTx (takeTx a rest s)).seq.cont = .send p := hcont
    have hnext : (advanceTx (takeTx a rest s)).seq.idx.toNat = s.seq.idx.toNat + 1 :=
      toNat_add_one (n := s.seq.idx) (by omega)
    refine hw.inv (by rw [hcont']; nofun) ?_
    simp only [State.positionOk, hcont']
    exact ⟨hnext.trans_lt hmore, htx, hrx, hheads⟩
  case last =>
    cases p with
    | none => exact h.inv_finish_plain (.inl rfl) _ _ s.result.frameLen hlen
    | some k =>
      have hw : Working (startHead k (setTxCount s.result.frameLen (advanceTx (takeTx a rest s)))) :=
        { h with txCount := hlen }
      exact hw.inv nofun ⟨(idx_startHead k _).trans_lt (by decide), hrx, hheads⟩

theorem takeRx (h : Working s) (hidx : s.seq.idx.toNat < 258) (hcount : s.result.rxCount = s.seq.idx) (v : Byte)
    (rest : List RxAnswer) : Working (takeRx [v] rest s) := by
  have hfits : s.seq.idx.toNat + [v].length ≤ bufferSize .rxbuf := hidx
  have hrx : (s.result.rxCount + 1).toNat ≤ 258 := by
    rw [hcount, toNat_add_one (by omega)]
    omega
  exact { h with memories := memoriesOk_setBuf (b := .rxbuf) h.memories hfits, rxCount := hrx }

theorem inv_finish_framing (h : Working s) (hrx : s.result.rxCount = 3) {h0 h1 h2 : Byte} (hne : h0 ≠ 0x70) :
    (finish .framing (reportHead h0 h1 h2 s)).Inv :=
  inv_of_ended h.memories h.frame (endedWith_finish _ _)
    (outcomeOk_of_framing rfl h.status h.plen hne h.rxCk h.calcCk h.txCount hrx)

theorem inv_finish_checksum (h : Working s) {covered : List Byte} {c : Byte} (hne : checksum covered ≠ c)
    (h0 h1 h2 : Byte) (q : Sequencer) :
    (finish .checksum (reportChecksums covered c { reportHead h0 h1 h2 s with seq := q })).Inv :=
  inv_of_ended h.memories h.frame (endedWith_finish _ _)
    (outcomeOk_of_checksum rfl h.status h.plen hne.symm h.txCount h.rxCount)

theorem inv_statusConcluded (h : Working s) (hrx : s.result.rxCount = 3) (k : AnswerKind) (st c : Byte) :
    (statusConcluded k st (reportChecksums [0x70, st] (checksum [0x70, st]) (reportHead 0x70 st c s))).Inv := by
  refine inv_of_ended h.memories h.frame (endedWith_finish _ _) ?_
  unfold statusConcluded
  by_cases hst : st = 0x00
  · rw [if_pos hst, if_pos hst]
    exact outcomeOk_of_completed rfl rfl rfl (by rw [← Config.payloadMax]; exact h.plen ▸ Nat.zero_le _)
      h.txCount h.rxCount
  · rw [if_neg hst, if_neg hst]
    obtain ⟨hcompleted, hnone⟩ := decodeStatus_ne k st
    exact outcomeOk_of_status rfl hcompleted hnone h.plen rfl hst h.txCount hrx

/-- What follows the third head byte. -/
theorem leads_afterHead (h : Working s) (hidx : s.seq.idx = 3) (hrx : s.result.rxCount = 3) (k : AnswerKind) :
    Leads State.Inv (afterHead k s) := by
  refine Machine.leads_afterHead (fun h0 h1 h2 hne => h.inv_finish_framing hrx hne)
    (fun h1 _ => h.inv_statusConcluded hrx k h1 _) (fun covered c h1 h2 q hne => h.inv_finish_checksum hne 0x70 h1 h2 q)
    fun n hbuf hn => ?body
  case body =>
    have hw : Working (startBody n (reportHead 0x70 0x00 n s)) := { h with }
    have hidx' : s.seq.idx.toNat = 3 := by rw [hidx]; rfl
    have hpos : 0 < n.toNat := toNat_pos_of_ne_zero hn
    refine hw.inv nofun ⟨hidx'.ge, ?_, hrx.trans hidx.symm, rfl, hbuf⟩
    change s.seq.idx.toNat < 3 + n.toNat
    omega

/-- What follows the last body byte. -/
theorem leads_afterBody (h : Working s) : Leads State.Inv (afterBody s) := by
  refine Machine.leads_afterBody (fun covered hlen _ => ?right) fun covered c hne =>
    h.inv_finish_checksum hne s.result.hdrRaw s.result.statusRaw s.result.b2Raw s.seq
  case right =>
    have hnexp := s.seq.nexp.isLt
    have hp : (covered.drop 3).length ≤ 254 := by
      rw [List.length_drop]
      omega
    have hplen : (BitVec.ofNat 8 (covered.drop 3).length).toNat ≤ 254 := by
      rw [BitVec.toNat_ofNat, Nat.mod_eq_of_lt (by omega)]
      exact hp
    exact inv_of_ended (memoriesOk_setBuf (b := .payload) h.memories (by rwa [Nat.zero_add])) h.frame
      (endedWith_finish _ _) (outcomeOk_of_completed rfl rfl rfl hplen h.txCount h.rxCount)

theorem inv_readFailed (h : Working s) (rest : List RxAnswer) : (raiseIo .receive (takeRxFailure rest s)).Inv :=
  h.inv_finish_plain (.inr (.inl rfl)) .receive _ _ h.txCount

/-- One `RxByte` of the head. -/
theorem leads_rxStep_head (h : Working s) {k : AnswerKind} (hcont : s.seq.cont = .head k) (hpos : s.positionOk)
    (a : RxAnswer) (rest : List RxAnswer) : Leads State.Inv (rxStep 3 a rest s (afterHead k)) := by
  simp only [State.positionOk, hcont] at hpos
  obtain ⟨hidx, hcount, hheads⟩ := hpos
  refine leads_rxStep (by omega) (fun _ => h.inv_readFailed rest) (fun v _ hmore => ?more) fun v _ hlast => ?done
  case more =>
    have hcont' : (Machine.takeRx [v] rest s).seq.cont = .head k := hcont
    refine (h.takeRx (by omega) hcount v rest).inv (by rw [hcont']; nofun) ?_
    simp only [State.positionOk, hcont']
    exact ⟨(toNat_add_one (by omega)).trans_lt hmore, congrArg (· + 1) hcount, hheads⟩
  case done =>
    have hlast' : s.seq.idx.toNat + 1 = 3 := by omega
    have hthree : s.seq.idx + 1 = 3 := BitVec.eq_of_toNat_eq ((toNat_add_one (by omega)).trans hlast')
    exact (h.takeRx (by omega) hcount v rest).leads_afterHead hthree ((congrArg (· + 1) hcount).trans hthree) k

/-- A byte stored behind the head leaves the head in RXBUF. -/
theorem readBytes_head_takeRx (hidx : 3 ≤ s.seq.idx.toNat) (v : Byte) (rest : List RxAnswer) :
    (Machine.takeRx [v] rest s).bufs.rxbuf.readBytes 0 3 = s.bufs.rxbuf.readBytes 0 3 := by
  apply List.ext_getElem?
  intro j
  rw [Memory.getElem?_readBytes, Memory.getElem?_readBytes]
  split
  next hj =>
    change some ((s.bufs.rxbuf.writeBytes s.seq.idx.toNat [v]).read (0 + j)) = _
    rw [Memory.read_writeBytes, if_neg (by omega)]
  next => rfl

/-- One `RxByte` of the body. -/
theorem leads_rxStep_body (h : Working s) (hcont : s.seq.cont = .body) (hpos : s.positionOk)
    (a : RxAnswer) (rest : List RxAnswer) :
    Leads State.Inv (rxStep (3 + s.seq.nexp.toNat) a rest s afterBody) := by
  simp only [State.positionOk, hcont] at hpos
  obtain ⟨hidx, hupto, hcount, hheads, hbuf⟩ := hpos
  have hmax := three_add_toNat_le s.seq.nexp
  refine leads_rxStep (by omega) (fun _ => h.inv_readFailed rest) (fun v _ hmore => ?more) fun v _ _ => ?done
  case more =>
    have hcont' : (Machine.takeRx [v] rest s).seq.cont = .body := hcont
    have hnext : (Machine.takeRx [v] rest s).seq.idx.toNat = s.seq.idx.toNat + 1 :=
      toNat_add_one (n := s.seq.idx) (by omega)
    refine (h.takeRx (by omega) hcount v rest).inv (by rw [hcont']; nofun) ?_
    simp only [State.positionOk, hcont']
    exact ⟨by omega, hnext.trans_lt hmore, congrArg (· + 1) hcount, hheads,
      (readBytes_head_takeRx hidx v rest).trans hbuf⟩
  case done => exact (h.takeRx (by omega) hcount v rest).leads_afterBody

end Working

/-- A link step of a state that has the invariant leads to one that has it. -/
theorem leads_linkStep {s : State} (h : s.Inv) (hbusy : s.result.busy = true) : Leads State.Inv (linkStep s) := by
  have hw := working_of_inv h hbusy
  obtain ⟨-, -, -, hpos, -, -⟩ := id h
  cases hcont : s.seq.cont with
  | none =>
    rw [linkStep_of_none hcont]
    exact leads_next h
  | send p =>
    cases hq : s.link.txAnswers with
    | nil =>
      rw [linkStep_of_unanswered (.inl ⟨p, hcont, hq⟩)]
      exact leads_next h
    | cons a rest =>
      rw [linkStep_send hcont hq]
      exact hw.leads_txStep hcont hpos a rest
  | head k =>
    cases hq : s.link.rxStream with
    | nil =>
      rw [linkStep_of_unanswered (.inr (.inl ⟨k, hcont, hq⟩))]
      exact leads_next h
    | cons a rest =>
      rw [linkStep_head hcont hq]
      exact hw.leads_rxStep_head hcont hpos a rest
  | body =>
    cases hq : s.link.rxStream with
    | nil =>
      rw [linkStep_of_unanswered (.inr (.inr ⟨hcont, hq⟩))]
      exact leads_next h
    | cons a rest =>
      rw [linkStep_body hcont hq]
      exact hw.leads_rxStep_body hcont hpos a rest

/-! ## The step -/

/-- After reset only the host's DATA is left to ask about. -/
theorem inv_resetBlock {s : State} (hdata : s.port.data.wf ∧ s.port.data.within Config.dataMax) :
    (resetBlock s).Inv := by
  obtain ⟨hldata, hframe, hrxbuf, hpayload, -⟩ := reset_memoriesOk
  refine ⟨⟨hldata, hframe, hrxbuf, hpayload, hdata⟩, ?flags, .inl rfl, trivial, nofun, ?outcome⟩
  case flags => simp [State.flagsOk, State.reset]
  case outcome => exact outcomeOk_of_plain (.inl rfl) rfl rfl (Nat.zero_le _) (Nat.zero_le _)

/-- From a state that has the invariant the step answers a next state that has it. -/
theorem leads_step {s : State} (h : s.Inv) : Leads State.Inv (step s) := by
  by_cases hreset : s.resetIn = true
  · rw [step_of_resetIn hreset]
    obtain ⟨⟨-, -, -, -, hdata⟩, -⟩ := h
    exact leads_next (inv_resetBlock hdata)
  have hreset' : s.resetIn = false := by simpa using hreset
  by_cases hline : s.link.line ≠ []
  · obtain ⟨bytes, rest, -, harrival⟩ := arrivalStep_eq hline
    rw [step_of_line hreset' hline, harrival]
    exact leads_next h
  have hline' : s.link.line = [] := not_not.mp hline
  cases hbusy : s.result.busy with
  | true =>
    rw [step_eq_linkStep ⟨hreset', hline', hbusy⟩]
    exact leads_linkStep h hbusy
  | false =>
    cases hvalid : s.port.reqValid with
    | true =>
      rw [step_of_acceptsNext ⟨hreset', hline', hbusy, hvalid⟩]
      exact (fresh_accept h).leads_exec (isOperation_decodeFields _ _ _ _ _ _)
    | false =>
      have hstep : step s = .next s := by simp [step, turn, hreset', hline', hbusy, hvalid]
      rw [hstep]
      exact leads_next h

/-- Settles O55: the state after reset is what a reset step makes of it. -/
theorem resetEstablishesTheInvariant : Obligations.ResetEstablishesTheInvariant := by
  have hinv : (resetBlock State.reset).Inv := inv_resetBlock (by decide)
  exact hinv

/-- Settles O56: what the step answers is the state it leads to. -/
theorem everyStepKeepsTheInvariant : Obligations.EveryStepKeepsTheInvariant :=
  fun _ _ hinv hstep => (leads_step hinv).of_eq_next hstep

/-- Settles O57: the step leads to a next state. -/
theorem noStepStops : Obligations.NoStepStops := by
  intro s hinv
  obtain ⟨t, hstep, -⟩ := leads_step hinv
  exact ⟨t, hstep⟩

end Sys2Proof.Machine

/-! Runs of link steps (00_scope R18, 20_memory R76 to R79): what a link step does to the link, that a busy block's
steps are link steps, that answers may come in pieces, and what a reset in the middle of an operation leaves. -/

namespace Sys2Proof.Machine

/-! ## What a link step does to the link -/

theorem afterHead_keepsLink (k : AnswerKind) (s : State) : Leads (fun t => t.link = s.link) (afterHead k s) :=
  leads_afterHead (fun _ _ _ _ => rfl) (fun _ _ => rfl) (fun _ _ _ _ _ _ => rfl) (fun _ _ _ => rfl)

theorem afterBody_keepsLink (s : State) : Leads (fun t => t.link = s.link) (afterBody s) :=
  leads_afterBody (fun _ _ _ => rfl) (fun _ _ _ => rfl)

theorem afterSend_link (p : Option AnswerKind) (s : State) : (afterSend p s).link = s.link := by
  cases p <;> rfl

section
variable {s t : State}

/-- One `TxByte` takes its answer and does nothing else to the link. -/
theorem txStep_takes {p : Option AnswerKind} {a : TxAnswer} {rest : List TxAnswer} (hidx : s.seq.idx.toNat < 259) :
    Leads (fun t => t.link = (takeTx a rest s).link) (txStep p a rest s) :=
  leads_txStep hidx rfl (fun _ => rfl) (fun _ => afterSend_link p _)

/-- One `RxByte` takes its answer and does nothing else to the link. -/
theorem rxStep_takes {upto : Nat} {a : RxAnswer} {rest : List RxAnswer} {done : State → Out}
    (hdone : ∀ u, Leads (fun t => t.link = u.link) (done u)) (hidx : s.seq.idx.toNat < 258) :
    Leads (fun t => t.link = { s.link with rxStream := rest, history := s.link.history ++ [LinkEvent.rx a] })
      (rxStep upto a rest s done) := by
  refine leads_rxStep hidx (fun ha => ha ▸ rfl) (fun v ha _ => ha ▸ rfl) fun v ha _ => ?_
  subst ha
  exact hdone (takeRx [v] rest s)

/-- A ReadExact reads up to the end of RXBUF at most, and what follows it leaves the link alone. -/
theorem reading_bounds {upto : Nat} {done : State → Out} (hread : s.seq.reading = some (upto, done)) :
    upto ≤ 258 ∧ ∀ u, Leads (fun t => t.link = u.link) (done u) := by
  unfold Sequencer.reading at hread
  split at hread
  next k _ => cases hread; exact ⟨by decide, afterHead_keepsLink k⟩
  next => cases hread; exact ⟨three_add_toNat_le _, afterBody_keepsLink⟩
  next => cases hread

/-- Where a link step is pending: in a send stage or in a ReadExact. -/
theorem pending_cases (s : State) : s.seq.cont = .none ∨ (∃ p, s.seq.cont = .send p) ∨
    ∃ upto done, s.seq.reading = some (upto, done) := by
  cases hcont : s.seq.cont with
  | none => exact .inl rfl
  | send p => exact .inr (.inl ⟨p, rfl⟩)
  | head k => exact .inr (.inr ⟨_, _, by rw [Sequencer.reading, hcont]⟩)
  | body => exact .inr (.inr ⟨_, _, by rw [Sequencer.reading, hcont]⟩)

end

/-! ## A busy block's steps are link steps (R18, R288, R292) -/

/-- A run of the machine is a run of link steps as long as the operation has not ended. -/
theorem core_run_eq_linkSteps {n : Nat} {s : State} (hresumes : s.resumesNext)
    (hbusy : ∀ m, m < n → ∃ t : State, linkSteps m s = .next t ∧ t.result.busy = true) :
    Host.Core.run core n s = linkSteps n s := by
  induction n generalizing s with
  | zero => rfl
  | succ n ih =>
    have hstep := step_eq_linkStep hresumes
    obtain ⟨hreset, hline, -⟩ := hresumes
    have hcore : core.step s = linkStep s := hstep
    cases hs : linkStep s with
    | next t =>
      rw [core_run_succ n (hstep.trans hs), linkSteps_succ_of_next hs]
      cases n with
      | zero => rfl
      | succ n =>
        obtain ⟨t', ht', hb⟩ := hbusy 1 (by omega)
        rw [linkSteps_one, hs] at ht'
        cases ht'
        have hheld := linkStep_holds hs
        refine ih ⟨?_, ?_, hb⟩ fun m hm => ?_
        · rw [hheld]
          exact hreset
        · rw [hheld]
          exact hline
        · obtain ⟨u, hu, hub⟩ := hbusy (m + 1) (by omega)
          rw [linkSteps_succ_of_next hs] at hu
          exact ⟨u, hu, hub⟩
    | fault r =>
      simp only [Host.Core.run, linkSteps, hcore, hs]
      rfl
    | refused r =>
      simp only [Host.Core.run, linkSteps, hcore, hs]
      rfl

/-- Settles O58: the step is the link step, which takes the answer at the front of its queue. -/
theorem busyStepTakesOneLinkStep : Obligations.BusyStepTakesOneLinkStep := by
  refine ⟨fun s hresumes => ⟨step_eq_linkStep hresumes, ?sends, ?reads⟩, fun n s => core_run_eq_linkSteps⟩
  case sends =>
    intro p b x rest hcont hlen hb hq
    obtain ⟨hidx, -⟩ := List.getElem?_eq_some_iff.mp hb
    rw [Memory.length_readBytes] at hidx
    rw [frameBytes_getElem? hidx, Option.some_inj] at hb
    rw [step_eq_linkStep hresumes, linkStep_send hcont hq, ← hb]
    exact txStep_takes (by omega)
  case reads =>
    intro x rest hpos hq
    have hread : ∃ upto done, s.seq.reading = some (upto, done) ∧ s.seq.idx.toNat < upto := by
      rcases hpos with ⟨k, hcont, hidx⟩ | ⟨hcont, hidx⟩
      · exact ⟨_, _, by rw [Sequencer.reading, hcont], hidx⟩
      · exact ⟨_, _, by rw [Sequencer.reading, hcont], hidx⟩
    obtain ⟨upto, done, hread, hidx⟩ := hread
    obtain ⟨hmax, hdone⟩ := reading_bounds hread
    rw [step_eq_linkStep hresumes, linkStep_eq_rxStep hread hq]
    exact rxStep_takes hdone (by omega)

/-! ## Answers in pieces (20_memory R76) -/

/-- The transport gives further answers. -/
def grantAside (tx : List TxAnswer) (rx : List RxAnswer) : Aside where
  port    := id
  latch   := id
  ldata   := id
  link    := fun l => { l with txAnswers := l.txAnswers ++ tx, rxStream := l.rxStream ++ rx }
  txCount := id
  resetIn := id
  draws   := id

theorem answered_grantAside (tx : List TxAnswer) (rx : List RxAnswer) (s : State) :
    answered ((grantAside tx rx).apply s) = answered s + (tx.length + rx.length) := by
  simp only [answered, Aside.apply, grantAside, List.length_append]
  omega

/-- The link step takes an answer that is there: it takes exactly one, and does so whatever further answers come. -/
structure TakesAnswer (s : State) : Prop where
  passes : ∀ tx rx, linkStep ((grantAside tx rx).apply s) = mapNext (grantAside tx rx).apply (linkStep s)
  answered_eq : 0 < answered s ∧ ∀ t, linkStep s = .next t → answered t + 1 = answered s

theorem takesAnswer_send {s : State} {p : Option AnswerKind} {a : TxAnswer} {rest : List TxAnswer}
    (hcont : s.seq.cont = .send p) (hq : s.link.txAnswers = a :: rest) : TakesAnswer s where
  passes tx rx := by
    have hq' : ((grantAside tx rx).apply s).link.txAnswers = a :: (rest ++ tx) := congrArg (· ++ tx) hq
    rw [linkStep_send hcont hq, linkStep_send (s := (grantAside tx rx).apply s) hcont hq']
    exact txStep_apply _ rfl rfl
  answered_eq := by
    rw [linkStep_send hcont hq, answered, hq, List.length_cons]
    refine ⟨by omega, fun t ht => ?_⟩
    have hlink := (txStep_takes (idx_lt_of_txStep_next ht)).of_eq_next ht
    have htx : t.link.txAnswers = rest := by rw [hlink]; rfl
    have hrx : t.link.rxStream = s.link.rxStream := by rw [hlink]; rfl
    rw [answered, htx, hrx]
    omega

theorem idx_lt_of_rxStep_next {upto : Nat} {v : Byte} {rest : List RxAnswer} {s t : State} {done : State → Out}
    (h : rxStep upto (.byte v) rest s done = .next t) : s.seq.idx.toNat < 258 := by
  by_contra hidx
  rw [rxStep_of_outside hidx] at h
  cases h

/-- What follows a ReadExact passes every change of an `Aside`. -/
theorem reading_passes {q : Sequencer} {upto : Nat} {done : State → Out} (hread : q.reading = some (upto, done))
    (g : Aside) : g.Passes done := by
  unfold Sequencer.reading at hread
  split at hread
  next k _ => cases hread; exact afterHead_passes g k
  next => cases hread; exact afterBody_passes g
  next => cases hread

theorem takesAnswer_reading {s : State} {upto : Nat} {done : State → Out} {a : RxAnswer} {rest : List RxAnswer}
    (hread : s.seq.reading = some (upto, done)) (hq : s.link.rxStream = a :: rest) : TakesAnswer s where
  passes tx rx := by
    have hq' : ((grantAside tx rx).apply s).link.rxStream = a :: (rest ++ rx) := congrArg (· ++ rx) hq
    rw [linkStep_eq_rxStep hread hq, linkStep_eq_rxStep (s := (grantAside tx rx).apply s) hread hq']
    exact rxStep_apply _ (reading_passes hread _) fun _ => rfl
  answered_eq := by
    rw [linkStep_eq_rxStep hread hq, answered, hq, List.length_cons]
    refine ⟨by omega, fun t ht => ?_⟩
    have hlink : t.link = { s.link with rxStream := rest, history := s.link.history ++ [LinkEvent.rx a] } := by
      cases a with
      | ioerr => cases ht; rfl
      | byte v => exact (rxStep_takes (reading_bounds hread).2 (idx_lt_of_rxStep_next ht)).of_eq_next ht
    have htx : t.link.txAnswers = s.link.txAnswers := by rw [hlink]
    have hrx : t.link.rxStream = rest := by rw [hlink]
    rw [answered, htx, hrx]
    omega

/-- A link step waits or takes an answer. -/
theorem waits_or_takesAnswer (s : State) : linkStep s = .next s ∨ TakesAnswer s := by
  rcases pending_cases s with hcont | ⟨p, hcont⟩ | ⟨upto, done, hread⟩
  · exact .inl (linkStep_of_none hcont)
  · cases hq : s.link.txAnswers with
    | nil => exact .inl (linkStep_of_unanswered (.inl ⟨p, hcont, hq⟩))
    | cons a rest => exact .inr (takesAnswer_send hcont hq)
  · cases hq : s.link.rxStream with
    | nil => exact .inl (linkStep_of_reading_waits hread hq)
    | cons a rest => exact .inr (takesAnswer_reading hread hq)

/-- Settling goes on from where link steps have led, if they have taken one answer each. -/
theorem settle_of_linkSteps {m : Nat} {s t : State} (hrun : linkSteps m s = .next t)
    (hcount : answered s = m + answered t) : settle s = settle t := by
  rw [settle, hcount, linkSteps_add hrun, settle]

/-- Settles O59, by induction on the answers given: each link step that takes one passes the further answers, and where
the operation waits nothing has been settled yet. -/
theorem answersMayArriveInPieces : Obligations.AnswersMayArriveInPieces := by
  intro s tx rx
  change settle ((grantAside tx rx).apply s) = thenSettle (mapNext (grantAside tx rx).apply (settle s))
  generalize hn : answered s = n
  induction n generalizing s with
  | zero =>
    have hsettled : settle s = .next s := by rw [settle, hn, linkSteps_zero]
    rw [hsettled, mapNext_next, thenSettle_next]
  | succ n ih =>
    rcases waits_or_takesAnswer s with hwaits | ⟨hpasses, -, hcount⟩
    · have hsettled : settle s = .next s := linkSteps_of_fixed hwaits _
      rw [hsettled, mapNext_next, thenSettle_next]
    · have hpassed := hpasses tx rx
      have hmore : answered ((grantAside tx rx).apply s) = n + (tx.length + rx.length) + 1 := by
        rw [answered_grantAside]
        omega
      cases hs : linkStep s with
      | next t =>
        have ht := hcount t hs
        rw [hs, mapNext_next] at hpassed
        rw [settle_of_linkSteps (m := 1) ((linkSteps_one s).trans hs) (by omega),
          settle_of_linkSteps (m := 1) ((linkSteps_one _).trans hpassed)
            (by rw [answered_grantAside, answered_grantAside]; omega)]
        exact ih t (by omega)
      | fault r =>
        rw [hs] at hpassed
        rw [settle, settle, hmore, hn, linkSteps, linkSteps, hs, hpassed]
        rfl
      | refused r =>
        rw [hs] at hpassed
        rw [settle, settle, hmore, hn, linkSteps, linkSteps, hs, hpassed]
        rfl

/-! ## Reset between two bytes (70_reset R281) -/

theorem latchedInstr_accept_of_op {s : State} {op : Nat} (h : s.port.req0.toNat % 8 = op) :
    ∃ f d1 d2 dlen data, latchedInstr (accept s) = decodeFields (BitVec.ofNat 3 op) f d1 d2 dlen data := by
  rw [latchedInstr_accept, decodeRequest, reqOp_eq_ofNat_mod, h]
  exact ⟨_, _, _, _, _, rfl⟩

theorem step_assertReset (t : State) : step (assertReset t) = .next (resetBlock (assertReset t)) :=
  step_of_resetIn rfl

/-- The step that accepts an operation and the steps that follow, as long as the operation has not ended. -/
theorem core_run_of_accepted {s a t : State} {n : Nat} (haccept : step s = .next a) (hresumes : a.resumesNext)
    (hbusy : ∀ m, m < n → ∃ u : State, linkSteps m a = .next u ∧ u.result.busy = true)
    (hrun : linkSteps n a = .next t) : Host.Core.run core (n + 1) s = .next t := by
  exact (core_run_succ n haccept).trans ((core_run_eq_linkSteps hresumes hbusy).trans hrun)

/-- Between two bytes of a send stage whose next bytes are accepted too. -/
theorem linkSteps_sending_of_le {p : Option AnswerKind} {m k : Nat} {rest : List TxAnswer} {s : State}
    (hlen : s.result.frameLen.toNat ≤ 259) (hk : k < s.result.frameLen.toNat)
    (hanswers : s.link.txAnswers = List.replicate k .ok ++ rest) (hm : m ≤ k) :
    linkSteps m (sending p 0 s.link.txAnswers s) =
      .next (sending p m (List.replicate (k - m) .ok ++ rest) s) := by
  have hsplit : s.link.txAnswers = List.replicate m .ok ++ (List.replicate (k - m) .ok ++ rest) := by
    rw [← List.append_assoc, ← List.replicate_add, Nat.add_sub_cancel' hm, hanswers]
  rw [hsplit]
  exact linkSteps_sending_part hlen (lt_of_le_of_lt hm hk)

/-- Between two bytes of a head whose next bytes have come too. -/
theorem linkSteps_startHead_of_le {k : AnswerKind} {m : Nat} {bytes : List Byte} {rest : List RxAnswer} {s : State}
    (hlen : bytes.length < 3) (hstream : s.link.rxStream = bytes.map RxAnswer.byte ++ rest) (hm : m ≤ bytes.length) :
    linkSteps m (startHead k s) =
      .next (takeRx (bytes.take m) ((bytes.drop m).map RxAnswer.byte ++ rest) (startHead k s)) := by
  have hsplit : (startHead k s).link.rxStream =
      (bytes.take m).map RxAnswer.byte ++ ((bytes.drop m).map RxAnswer.byte ++ rest) := by
    rw [← List.append_assoc, ← List.map_append, List.take_append_drop, startHead_link, hstream]
  have hlen' : (bytes.take m).length = m := List.length_take_of_le hm
  have htaken := linkSteps_of_reading_part (reading_startHead k s) hsplit (by rw [idx_startHead]; omega) (by decide)
  rwa [hlen'] at htaken

/-- The step that accepts a request for PARSE_QUERY or PARSE_CONTROL begins its head. -/
theorem step_parse_request {s : State} (haccepts : s.acceptsNext)
    (hop : s.port.req0.toNat % 8 = 4 ∨ s.port.req0.toNat % 8 = 5) :
    ∃ k, step s = .next (startHead k (accept s)) := by
  rw [step_of_acceptsNext haccepts]
  rcases hop with hop | hop
  · obtain ⟨f, d1, d2, dlen, data, hinstr⟩ := latchedInstr_accept_of_op hop
    exact ⟨.query, by rw [hinstr, decodeFields_four, exec_pq]⟩
  · obtain ⟨f, d1, d2, dlen, data, hinstr⟩ := latchedInstr_accept_of_op hop
    exact ⟨.control, by rw [hinstr, decodeFields_five, exec_pc]⟩

/-- The step that accepts a request for SEND stands before byte 0 of a frame that is not empty. -/
theorem step_send_request {s : State} (haccepts : s.acceptsNext) (hop : s.port.req0.toNat % 8 = 3)
    (hlen : s.result.frameLen.toNat ≤ 259) (hne : s.result.frameLen.toNat ≠ 0) :
    step s = .next (sending none 0 (accept s).link.txAnswers (accept s)) := by
  obtain ⟨f, d1, d2, dlen, data, hinstr⟩ := latchedInstr_accept_of_op hop
  rw [step_of_acceptsNext haccepts, hinstr, decodeFields_three, exec_send]
  exact sendStage_eq_sending (s := accept s) hlen hne

/-- Settles O60: between two bytes of a send stage and of a ReadExact the block is busy, and reset keeps its link. -/
theorem resetAbandonsARunningOperation : Obligations.ResetAbandonsARunningOperation := by
  refine ⟨fun s k rest haccepts hop hlen hk hanswers => ?send, fun s bytes rest haccepts hop hlen hstream => ?parse⟩
  case send =>
    have hstep := step_send_request haccepts hop hlen (by omega)
    have hpart {m : Nat} := linkSteps_sending_of_le (p := none) (m := m) (s := accept s) hlen hk hanswers
    have hrun := hpart le_rfl
    rw [Nat.sub_self, List.replicate_zero, List.nil_append] at hrun
    obtain ⟨hreset, hline, -, -⟩ := haccepts
    exact ⟨_, _, core_run_of_accepted hstep ⟨hreset, hline, rfl⟩ (fun m hm => ⟨_, hpart hm.le, rfl⟩) hrun,
      rfl, step_assertReset _, rfl, rfl, rfl⟩
  case parse =>
    obtain ⟨k, hstep⟩ := step_parse_request haccepts hop
    have hpart {m : Nat} := linkSteps_startHead_of_le (k := k) (m := m) (s := accept s) hlen hstream
    have hrun := hpart le_rfl
    rw [List.take_length, List.drop_length, List.map_nil, List.nil_append] at hrun
    obtain ⟨hreset, hline, -, -⟩ := haccepts
    exact ⟨_, _, core_run_of_accepted hstep ⟨hreset, hline, rfl⟩ (fun m hm => ⟨_, hpart hm.le, rfl⟩) hrun,
      rfl, step_assertReset _, rfl, rfl, rfl⟩

end Sys2Proof.Machine

/-! The exchanges over any run (20_memory R78, R79, 43_exchange R232): what they have recorded however far they have
come, and that they leave what the three separate operations leave. -/

namespace Sys2Proof.Machine

/-! ## The parse stage never stops -/

/-- The operation has ended, or stands in a ReadExact before its last byte. -/
def InParse (s : State) : Prop :=
  s.seq.cont = .none ∨ ∃ upto done, s.seq.reading = some (upto, done) ∧ s.seq.idx.toNat < upto

theorem inParse_startHead (k : AnswerKind) (s : State) : InParse (startHead k s) :=
  .inr ⟨3, afterHead k, rfl, (idx_startHead k s).trans_lt (by decide)⟩

theorem afterHead_inParse (k : AnswerKind) {s : State} (hidx : s.seq.idx.toNat ≤ 3) :
    Leads InParse (afterHead k s) := by
  refine leads_afterHead (fun _ _ _ _ => .inl rfl) (fun _ _ => .inl rfl) (fun _ _ _ _ _ _ => .inl rfl)
    fun n _ hn => .inr ⟨3 + n.toNat, afterBody, rfl, ?_⟩
  have hpos : 0 < n.toNat := toNat_pos_of_ne_zero hn
  change s.seq.idx.toNat < 3 + n.toNat
  omega

theorem afterBody_inParse (s : State) : Leads InParse (afterBody s) :=
  leads_afterBody (fun _ _ _ => .inl rfl) (fun _ _ _ => .inl rfl)

/-- What follows the last byte of a ReadExact ends the operation or goes on in the body. -/
theorem reading_inParse {q : Sequencer} {upto : Nat} {done : State → Out} (hread : q.reading = some (upto, done))
    {s : State} (hidx : s.seq.idx.toNat ≤ upto) : Leads InParse (done s) := by
  unfold Sequencer.reading at hread
  split at hread
  next k _ => cases hread; exact afterHead_inParse k hidx
  next => cases hread; exact afterBody_inParse s
  next => cases hread

/-- One `RxByte` of a ReadExact in progress. -/
theorem rxStep_inParse {s : State} {upto : Nat} {done : State → Out} (hread : s.seq.reading = some (upto, done))
    (hidx : s.seq.idx.toNat < upto) (a : RxAnswer) (rest : List RxAnswer) :
    Leads InParse (rxStep upto a rest s done) := by
  obtain ⟨hmax, -⟩ := reading_bounds hread
  have hnext (v : Byte) : (takeRx [v] rest s).seq.idx.toNat = s.seq.idx.toNat + 1 :=
    toNat_add_one (n := s.seq.idx) (by omega)
  exact leads_rxStep (by omega) (fun _ => .inl rfl)
    (fun v _ hmore => .inr ⟨upto, done, hread, (hnext v).trans_lt hmore⟩)
    (fun v _ _ => reading_inParse hread ((hnext v).trans_le hidx))

theorem linkStep_inParse {s : State} (h : InParse s) : Leads InParse (linkStep s) := by
  rcases id h with hcont | ⟨upto, done, hread, hidx⟩
  · rw [linkStep_of_none hcont]
    exact leads_next h
  · cases hq : s.link.rxStream with
    | nil =>
      rw [linkStep_of_reading_waits hread hq]
      exact leads_next h
    | cons a rest =>
      rw [linkStep_eq_rxStep hread hq]
      exact rxStep_inParse hread hidx a rest

theorem linkSteps_inParse {s : State} (h : InParse s) (n : Nat) : Leads InParse (linkSteps n s) := by
  induction n generalizing s with
  | zero => exact leads_next h
  | succ n ih =>
    obtain ⟨t, hstep, ht⟩ := linkStep_inParse h
    rw [linkSteps_succ_of_next hstep]
    exact ih ht

/-- The parse stage passes every change that leaves the link alone, of TX_COUNT too. -/
theorem linkStep_passes_inParse (g : Aside) (hlink : g.link = id) {s : State} (h : InParse s) :
    linkStep (g.apply s) = mapNext g.apply (linkStep s) := by
  have hq' : (g.apply s).link = s.link := congrFun hlink s.link
  rcases h with hcont | ⟨upto, done, hread, -⟩
  · rw [linkStep_of_none hcont, linkStep_of_none (s := g.apply s) hcont, mapNext_next]
  · cases hq : s.link.rxStream with
    | nil =>
      rw [linkStep_of_reading_waits hread hq,
        linkStep_of_reading_waits (s := g.apply s) hread (hq' ▸ hq), mapNext_next]
    | cons a rest =>
      rw [linkStep_eq_rxStep hread hq, linkStep_eq_rxStep (s := g.apply s) hread (hq' ▸ hq)]
      exact rxStep_apply g (reading_passes hread g) fun e => by rw [hlink]; rfl

theorem linkSteps_passes_inParse (g : Aside) (hlink : g.link = id) {s : State} (h : InParse s) (n : Nat) :
    linkSteps n (g.apply s) = mapNext g.apply (linkSteps n s) := by
  induction n generalizing s with
  | zero => rfl
  | succ n ih =>
    obtain ⟨t, hstep, ht⟩ := linkStep_inParse h
    have hpassed := linkStep_passes_inParse g hlink h
    rw [hstep, mapNext_next] at hpassed
    rw [linkSteps_succ_of_next hstep, linkSteps_succ_of_next hpassed, ih ht]

/-- A parse settles, and passes such a change as it does. -/
theorem settle_passes_inParse (g : Aside) (hlink : g.link = id) {s : State} (h : InParse s) :
    settle (g.apply s) = mapNext g.apply (settle s) := by
  have hanswered : answered (g.apply s) = answered s :=
    congrArg (fun l : Transport => l.txAnswers.length + l.rxStream.length) (congrFun hlink s.link)
  rw [settle, hanswered, linkSteps_passes_inParse g hlink h, settle]

/-! ## What an exchange has recorded (R78, R79) -/

/-- How far an exchange that found the record `before` has come. -/
inductive ExchangeProgress (before : List LinkEvent) (t : State) : Prop where
  | refused (hcont : t.seq.cont = .none) (hrecord : t.link.history = before)
  | sending (p : Option AnswerKind) (hcont : t.seq.cont = .send p)
      (hidx : t.seq.idx.toNat < t.result.frameLen.toNat) (hlen : t.result.frameLen.toNat ≤ 259)
      (hrecord : t.link.history = before ++ sentOk (t.frameBytes.take t.seq.idx.toNat))
  | failed (n : Nat) (b : Byte) (hcont : t.seq.cont = .none)
      (hrecord : t.link.history = before ++ sentOk (t.frameBytes.take n) ++ [LinkEvent.tx b .ioerr])
  | parsing (got : List RxAnswer) (hpos : InParse t)
      (hrecord : t.link.history = before ++ sentOk t.frameBytes ++ got.map LinkEvent.rx)

section
variable {before : List LinkEvent} {s t : State}

/-- One `TxByte` of an exchange: its failure, the next byte, or the begin of the parse. -/
theorem txStep_progress {p : Option AnswerKind} (hcont : s.seq.cont = .send p)
    (hidx : s.seq.idx.toNat < s.result.frameLen.toNat) (hlen : s.result.frameLen.toNat ≤ 259)
    (hrecord : s.link.history = before ++ sentOk (s.frameBytes.take s.seq.idx.toNat)) (a : TxAnswer)
    (rest : List TxAnswer) : Leads (ExchangeProgress before) (txStep p a rest s) := by
  have hsent : s.link.history ++ [LinkEvent.tx (s.bufs.frame.read s.seq.idx.toNat) .ok] =
      before ++ sentOk (s.frameBytes.take (s.seq.idx.toNat + 1)) := by
    rw [hrecord, sentOk_take_succ hidx, List.append_assoc]
  cases a with
  | ioerr =>
    rw [txStep_ioerr (by omega)]
    exact leads_next (.failed s.seq.idx.toNat _ rfl (congrArg (· ++ [LinkEvent.tx _ .ioerr]) hrecord))
  | ok =>
    by_cases hmore : s.seq.idx.toNat + 1 < s.result.frameLen.toNat
    · have hnext : (advanceTx (takeTx .ok rest s)).seq.idx.toNat = s.seq.idx.toNat + 1 :=
        toNat_add_one (n := s.seq.idx) (by omega)
      rw [txStep_ok_of_lt (by omega) hmore]
      refine leads_next (.sending p hcont (hnext.trans_lt hmore) hlen ?_)
      rw [hnext]
      exact hsent
    · have hall : s.frameBytes.take (s.seq.idx.toNat + 1) = s.frameBytes :=
        List.take_of_length_le (by rw [Memory.length_readBytes]; omega)
      rw [hall] at hsent
      rw [txStep_ok_last (by omega) (not_lt.mp hmore)]
      cases p with
      | none => exact leads_next (.parsing [] (.inl rfl) (hsent.trans (List.append_nil _).symm))
      | some k => exact leads_next (.parsing [] (inParse_startHead k _) (hsent.trans (List.append_nil _).symm))

/-- One `RxByte` of an exchange, after the whole frame was accepted. -/
theorem linkStep_progress_of_inParse (hpos : InParse s) {got : List RxAnswer}
    (hrecord : s.link.history = before ++ sentOk s.frameBytes ++ got.map LinkEvent.rx) :
    Leads (ExchangeProgress before) (linkStep s) := by
  obtain ⟨t, hstep, ht⟩ := linkStep_inParse hpos
  have hframe := (linkStep_keepsFrame hstep).frameBytes_eq
  refine ⟨t, hstep, ?_⟩
  rcases hpos with hcont | ⟨upto, done, hread, hidx⟩
  · rw [linkStep_of_none hcont] at hstep
    cases hstep
    exact .parsing got ht hrecord
  · cases hq : s.link.rxStream with
    | nil =>
      rw [linkStep_of_reading_waits hread hq] at hstep
      cases hstep
      exact .parsing got ht hrecord
    | cons a rest =>
      obtain ⟨hmax, hdone⟩ := reading_bounds hread
      rw [linkStep_eq_rxStep hread hq] at hstep
      have hlink := (rxStep_takes hdone (by omega)).of_eq_next hstep
      refine .parsing (got ++ [a]) ht ?_
      rw [hframe, hlink, hrecord, List.map_append, List.append_assoc]
      rfl

theorem linkStep_progress (h : ExchangeProgress before s) : Leads (ExchangeProgress before) (linkStep s) := by
  cases id h with
  | refused hcont hrecord =>
    rw [linkStep_of_none hcont]
    exact leads_next h
  | failed n b hcont hrecord =>
    rw [linkStep_of_none hcont]
    exact leads_next h
  | sending p hcont hidx hlen hrecord =>
    cases hq : s.link.txAnswers with
    | nil =>
      rw [linkStep_of_unanswered (.inl ⟨p, hcont, hq⟩)]
      exact leads_next h
    | cons a rest =>
      rw [linkStep_send hcont hq]
      exact txStep_progress hcont hidx hlen hrecord a rest
  | parsing got hpos hrecord => exact linkStep_progress_of_inParse hpos hrecord

theorem linkSteps_progress {n : Nat} (h : ExchangeProgress before s) (hrun : linkSteps n s = .next t) :
    ExchangeProgress before t := by
  induction n generalizing s with
  | zero =>
    cases hrun
    exact h
  | succ n ih =>
    obtain ⟨u, hstep, hsteps⟩ := linkSteps_succ_next hrun
    exact ih ((linkStep_progress h).of_eq_next hstep) hsteps

/-- The record of an exchange splits as R78 and R79 ask. -/
theorem ExchangeProgress.record (h : ExchangeProgress before t) :
    ∃ (sent : List Byte) (failed : List LinkEvent) (got : List RxAnswer),
      t.link.history = before ++ sentOk sent ++ failed ++ got.map LinkEvent.rx ∧
      sent <+: t.frameBytes ∧ (failed = [] ∨ ∃ b, failed = [LinkEvent.tx b .ioerr]) ∧
      (got ≠ [] → sent = t.frameBytes ∧ failed = []) := by
  cases h with
  | refused hcont hrecord =>
    exact ⟨[], [], [], by simp [hrecord, sentOk], List.nil_prefix, .inl rfl, fun h => absurd rfl h⟩
  | sending p hcont hidx hlen hrecord =>
    exact ⟨_, [], [], by simp [hrecord], List.take_prefix t.seq.idx.toNat _, .inl rfl, fun h => absurd rfl h⟩
  | failed n b hcont hrecord =>
    exact ⟨_, _, [], by simp [hrecord], List.take_prefix n _, .inr ⟨b, rfl⟩, fun h => absurd rfl h⟩
  | parsing got hpos hrecord =>
    exact ⟨_, [], got, by simp [hrecord], List.prefix_rfl, .inl rfl, fun _ => ⟨rfl, rfl⟩⟩

end

/-- The control exchange of any data bytes whose number passes the length check. -/
theorem isExchange_xc_of_le {f : Byte} {dlen : Count} {data : List Byte} (hle : dlen.toNat ≤ 254) :
    IsExchange (.xc f dlen data) .control (controlFrame f (operandData dlen data)) :=
  ⟨by simp, length_controlFrame_operandData_le hle, fun _ => execXc_of_le hle⟩

theorem exec_exchange_progress {i : Instr} {k : AnswerKind} {fr : List Byte} (h : IsExchange i k fr) {s a : State}
    (hexec : exec i s = .next a) : ExchangeProgress s.link.history a := by
  have hlen := frameLen_built (s := s) h.length_le
  rw [exec_exchange h] at hexec
  cases hexec
  exact .sending (some k) rfl (hlen.symm ▸ h.length_pos) (hlen.trans_le h.length_le) rfl

/-- Settles O35: an exchange is refused or stands before byte 0 of its request, and every link step keeps the order. -/
theorem exchangesWriteBeforeTheyRead : Obligations.ExchangesWriteBeforeTheyRead := by
  intro i s a t n hi hexec hrun
  have hprogress : ExchangeProgress s.link.history a := by
    rcases hi with ⟨f, d1, d2, rfl⟩ | ⟨f, dlen, data, rfl⟩
    · exact exec_exchange_progress (isExchange_xq f d1 d2) hexec
    · by_cases hle : dlen.toNat ≤ 254
      · exact exec_exchange_progress (isExchange_xc_of_le hle) hexec
      · have hrefused : exec (.xc f dlen data) s = refuseLength s := execXc_of_gt (not_le.mp hle) s
        rw [hrefused] at hexec
        cases hexec
        exact .refused rfl rfl
  exact (linkSteps_progress hprogress hrun).record

/-! ## An exchange is build, send and parse (R232) -/

/-- The operation that parses an answer of this kind. -/
def parseOf : AnswerKind → Instr
  | .query => .pq
  | .control => .pc

/-- The state in which the block has accepted the request the host has just presented. -/
def requested (req0 req1 : HostWord) (data : List Byte) (s : State) : State :=
  accept (hostPresent req0 req1 data s)

/-- Between operations, with no reset and no byte arriving. -/
structure Ready (s : State) : Prop where
  reset : s.resetIn = false
  line : s.link.line = []
  idle : s.result.busy = false

/-- The state in which a build of `fr` has ended. -/
def buildEnded (fr : List Byte) (s : State) : State :=
  finish .ok (setCalcCk (fr.getLastD 0) (built fr s))

/-- The state in which SEND has ended, every byte of the frame accepted and `tx` left. -/
def sendEnded (tx : List TxAnswer) (s : State) : State :=
  finish .ok (frameSent none tx s)

/-- TX_COUNT is given this content, and the port, the latch and LDATA those they have in `s`. -/
def countAside (n : Count) (s : State) : Aside where
  port    := fun _ => s.port
  latch   := fun _ => s.latch
  ldata   := fun _ => s.bufs.ldata
  link    := id
  txCount := fun _ => n
  resetIn := id
  draws   := id

section
variable {i : Instr} {req0 req1 : HostWord} {data fr : List Byte} {k : AnswerKind} {tx : List TxAnswer} {s : State}

theorem perform_of_ready (hwf : i.wf = true) (hencode : encode i = .request req0 req1 data) (h : Ready s) :
    perform i s = thenSettle (exec i (requested req0 req1 data s)) := by
  rw [perform, issue_of_idle hwf hencode h.reset h.line h.idle, requested]

/-- A build ends in the step that accepts it. -/
theorem perform_build (hwf : i.wf = true) (hencode : encode i = .request req0 req1 data)
    (hexec : ∀ u, exec i u = buildStage fr u fun v => .next (finish .ok (setCalcCk (fr.getLastD 0) v)))
    (hlen : fr.length ≤ 259) (h : Ready s) : perform i s = .next (buildEnded fr (requested req0 req1 data s)) := by
  rw [perform_of_ready hwf hencode h, hexec, buildStage_eq_built hlen, thenSettle_next, settle_finish, buildEnded]

/-- A send stage that is accepted whole settles as what follows it. -/
theorem settle_sending {p : Option AnswerKind} (hlen : s.result.frameLen.toNat ≤ 259)
    (hne : s.result.frameLen.toNat ≠ 0)
    (hanswers : s.link.txAnswers = List.replicate s.result.frameLen.toNat .ok ++ tx) :
    settle (sending p 0 s.link.txAnswers s) = settle (afterSend p (frameSent p tx s)) := by
  have hrun := linkSteps_sending_all (p := p) (rest := tx) hlen hne
  rw [← hanswers] at hrun
  refine settle_of_linkSteps hrun ?_
  rw [answered, answered, afterSend_link]
  change s.link.txAnswers.length + s.link.rxStream.length = _ + (tx.length + s.link.rxStream.length)
  rw [hanswers, List.length_append, List.length_replicate, Nat.add_assoc]

theorem perform_send (h : Ready s) (hlen : s.result.frameLen.toNat ≤ 259) (hne : s.result.frameLen.toNat ≠ 0)
    (hanswers : s.link.txAnswers = List.replicate s.result.frameLen.toNat .ok ++ tx) :
    perform .send s = .next (sendEnded tx (requested (packReq0 3 0 0 0) (packReq1 0) [] s)) := by
  rw [perform_of_ready rfl rfl h, exec_send,
    sendStage_eq_sending (s := requested (packReq0 3 0 0 0) (packReq1 0) [] s) hlen hne, thenSettle_next,
    settle_sending (s := requested (packReq0 3 0 0 0) (packReq1 0) [] s) hlen hne hanswers]
  exact settle_finish _ _

/-- A parse is accepted and settles. -/
theorem perform_parseOf (h : Ready s) :
    ∃ word, perform (parseOf k) s = settle (startHead k (requested word (packReq1 0) [] s)) := by
  cases k with
  | query => exact ⟨_, perform_of_ready (i := .pq) rfl rfl h⟩
  | control => exact ⟨_, perform_of_ready (i := .pc) rfl rfl h⟩

/-- An exchange whose request is accepted whole settles as its parse. -/
theorem perform_exchange (hwf : i.wf = true) (hencode : encode i = .request req0 req1 data)
    (hex : IsExchange i k fr) (h : Ready s) (hanswers : s.link.txAnswers = List.replicate fr.length .ok ++ tx) :
    perform i s = settle (startHead k (requestSent k fr tx (requested req0 req1 data s))) := by
  have hlen := frameLen_built (s := requested req0 req1 data s) hex.length_le
  have hpos := hex.length_pos
  rw [← hlen] at hanswers
  rw [perform_of_ready hwf hencode h, exec_exchange hex, thenSettle_next]
  exact settle_sending (s := built fr (requested req0 req1 data s)) (hlen.trans_le hex.length_le) (by omega) hanswers

/-- A parse changes no TX_COUNT. -/
theorem txCount_of_settle {t : State} (h : InParse s) (hrun : settle s = .next t) :
    t.result.txCount = s.result.txCount := by
  have hpassed := settle_passes_inParse (countAside s.result.txCount s) rfl h
  have hself : settle ((countAside s.result.txCount s).apply s) = settle s := rfl
  rw [hself, hrun, mapNext_next] at hpassed
  rw [Host.Outcome.next.inj hpassed]
  rfl

variable {build : Instr} {breq0 breq1 : HostWord} {bdata : List Byte}

/-- Where its parse begins, an exchange differs from the three separate operations in TX_COUNT and in what the port,
the latch and LDATA hold (R232). -/
theorem startHead_separate (word : HostWord) :
    startHead k (requested word (packReq1 0) [] (sendEnded tx (requested (packReq0 3 0 0 0) (packReq1 0) []
      (buildEnded fr (requested breq0 breq1 bdata s))))) =
    (countAside 0 (requested word (packReq1 0) [] (sendEnded tx (requested (packReq0 3 0 0 0) (packReq1 0) []
      (buildEnded fr (requested breq0 breq1 bdata s)))))).apply
        (startHead k (requestSent k fr tx (requested req0 req1 data s))) := rfl

/-- With the request accepted, build, SEND and parse leave what the exchange leaves, but for TX_COUNT. -/
theorem exchange_is_build_send_parse (hwf : i.wf = true) (hencode : encode i = .request req0 req1 data)
    (hex : IsExchange i k fr) (hbwf : build.wf = true) (hbencode : encode build = .request breq0 breq1 bdata)
    (hbuild : ∀ u, exec build u = buildStage fr u fun v => .next (finish .ok (setCalcCk (fr.getLastD 0) v)))
    (h : Ready s) (hanswers : s.link.txAnswers = List.replicate fr.length .ok ++ tx) :
    ∃ a b c x : State, perform build s = .next a ∧ perform .send a = .next b ∧ perform (parseOf k) b = .next c ∧
      perform i s = .next x ∧ x.result.txCount = BitVec.ofNat 9 fr.length ∧
      x.result = { c.result with txCount := BitVec.ofNat 9 fr.length } ∧ c.result.txCount = 0 ∧
      x.bufs.frame = c.bufs.frame ∧ x.bufs.payload = c.bufs.payload ∧ x.link = c.link := by
  have hlen : (buildEnded fr (requested breq0 breq1 bdata s)).result.frameLen.toNat = fr.length :=
    frameLen_built (s := requested breq0 breq1 bdata s) hex.length_le
  have hpos := hex.length_pos
  have hmax := hex.length_le
  have hready : Ready (buildEnded fr (requested breq0 breq1 bdata s)) := ⟨h.reset, h.line, rfl⟩
  have hsend := perform_send (tx := tx) hready (by omega) (by omega) (by rw [hlen]; exact hanswers)
  have hready' : Ready (sendEnded tx (requested (packReq0 3 0 0 0) (packReq1 0) []
    (buildEnded fr (requested breq0 breq1 bdata s)))) := ⟨h.reset, h.line, rfl⟩
  obtain ⟨word, hparse⟩ := perform_parseOf (k := k) hready'
  have hinParse := inParse_startHead k (requestSent k fr tx (requested req0 req1 data s))
  obtain ⟨x, hx, -⟩ := linkSteps_inParse hinParse (answered _)
  have hsettle : settle (startHead k (requestSent k fr tx (requested req0 req1 data s))) = .next x := hx
  have hcount : x.result.txCount = BitVec.ofNat 9 fr.length := txCount_of_settle hinParse hsettle
  rw [startHead_separate (req0 := req0) (req1 := req1) (data := data) word, settle_passes_inParse _ rfl hinParse,
    hsettle, mapNext_next] at hparse
  refine ⟨_, _, _, x, perform_build hbwf hbencode hbuild hmax h, hsend, hparse,
    (perform_exchange hwf hencode hex h hanswers).trans hsettle, hcount, ?result, rfl, rfl, rfl, rfl⟩
  case result =>
    rw [← hcount]
    rfl

end

/-- Settles O36: BUILD_QUERY and QUERY_EXCHANGE have the same build stage. -/
theorem queryExchangeIsBuildSendParse : Obligations.QueryExchangeIsBuildSendParse := by
  intro f d1 d2 s tx hreset hline hbusy hanswers
  have hbuild : ∀ u, exec (.bq f d1 d2) u = buildStage [0x83, 0x00, f, d1, d2, 0x83 + f + d1 + d2] u fun v =>
      .next (finish .ok (setCalcCk ([0x83, 0x00, f, d1, d2, 0x83 + f + d1 + d2].getLastD 0) v)) := by
    intro u
    rw [← checksum_query]
    rfl
  obtain ⟨a, b, c, x, ha, hb, hc, hx, hcount, hresult, hzero, hframe, hpayload, hlink⟩ :=
    exchange_is_build_send_parse rfl rfl (isExchange_xq f d1 d2) (build := .bq f d1 d2) rfl rfl hbuild
      ⟨hreset, hline, hbusy⟩ hanswers
  have hlen : x.result.frameLen = c.result.frameLen := by rw [hresult]
  refine ⟨a, b, c, x, ha, hb, hc, hx, hcount, hresult, hzero, ?_, hframe, hpayload, hlink⟩
  rw [State.frameBytes, hframe, hlen]

/-- Settles O37: BUILD_CONTROL and CONTROL_EXCHANGE have the same build stage; after a refused length FRAME_LEN is 0, so
that SEND ends at once. -/
theorem controlExchangeIsBuildSendParse : Obligations.ControlExchangeIsBuildSendParse := by
  intro f dlen data s hwf hreset hline hbusy
  have hready : Ready s := ⟨hreset, hline, hbusy⟩
  have hbwf : (Instr.bc f dlen data).wf = true := hwf
  refine ⟨fun tx hle hanswers => ?sent, fun hgt => ?length⟩
  case sent =>
    have hex : IsExchange (.xc f dlen data) .control (controlFrame f (operandData dlen data)) :=
      isExchange_xc_of_le hle
    have hlen : (controlFrame f (operandData dlen data)).length = dlen.toNat + 5 := by simp
    rw [← hlen] at hanswers
    obtain ⟨a, b, c, x, ha, hb, hc, hx, -, hresult, hzero, hframe, hpayload, hlink⟩ :=
      exchange_is_build_send_parse hwf rfl hex hbwf rfl (fun _ => execBc_of_le hle) hready hanswers
    rw [hlen, ofNat_toNat_add_five] at hresult
    exact ⟨a, b, c, x, ha, hb, hc, hx, hresult, hzero, hframe, hpayload, hlink⟩
  case length =>
    have hbuild : perform (.bc f dlen data) s =
        .next (finish .length (setFrameLen 0 (requested (packReq0 2 f 0 0) (packReq1 dlen) data s))) := by
      rw [perform_of_ready hbwf rfl hready, exec_bc, execBc_of_gt hgt, refuseLength, thenSettle_next, settle_finish]
    have hready' : Ready (finish .length (setFrameLen 0 (requested (packReq0 2 f 0 0) (packReq1 dlen) data s))) :=
      ⟨hreset, hline, rfl⟩
    have hsend := perform_of_ready (i := .send) rfl rfl hready'
    rw [exec_send, sendStage_of_empty rfl, thenSettle_next] at hsend
    exact ⟨_, _, hbuild, endedWith_finish _ _, hsend.trans (settle_finish _ _), endedWith_finish _ _, rfl, rfl⟩

end Sys2Proof.Machine
